-- ==== Sys2Proof/Word.lean ====
section
/-! DEFINITION. The widths the engine's data come in: a byte and a command word (00_scope.md R9, R10). -/

namespace Sys2Proof

/-- A byte is 8 bits (00_scope.md R10). -/
abbrev Byte := BitVec 8

/-- Every command is one 32-bit word (30_encoding.md R80). -/
abbrev CmdWord := BitVec 32

/-- A 4-bit immediate of a command word, ALG or DIG (30_encoding.md R81, R86). -/
abbrev Nibble := BitVec 4

end Sys2Proof
end

