-- ==== Sys2Proof/Syntax.lean ====
section
/-! DEFINITION. The nine commands and the names of their operands (30_encoding.md R84, R85, R87, R91). -/

namespace Sys2Proof

/-- The algorithm selector, operand ALG: the source's enumeration `SHA1, SHA256, SHA512, MD5, Unset` and "any other/unknown
value" (30_encoding.md R84). -/
inductive AlgSel where
  | unset
  | sha1
  | sha256
  | sha512
  | md5
  /-- An unrecognised selector, by its number 5 to 15. It is legal (R89). -/
  | unknown (n : Nibble)
  deriving DecidableEq, Repr

/-- The digit-count selector, operand DIG: the sentinel, or the count itself (30_encoding.md R85). -/
inductive DigSel where
  | unset
  /-- A digit count 1 to 15; 6 and 8 are canonical, the others are accepted (R85, R89). -/
  | count (n : Nibble)
  deriving DecidableEq, Repr

/-- The commands, one constructor for each row of spec/opcode_table.json (30_encoding.md R87). -/
inductive Instr where
  | nop
  | gen (alg : AlgSel) (dig : DigSel)
  | resolve (alg : AlgSel) (dig : DigSel)
  | encode
  | hmac
  | trunc
  | reduce
  | format
  | zero
  deriving DecidableEq, Repr

end Sys2Proof
end

