-- ==== Sys2Proof/WellFormed.lean ====
section
/-! DEFINITION. The terms that have an encoding of their own: an operand is written by its one name (30_encoding.md R84, R85). -/

namespace Sys2Proof

/-- A selector is called unknown only where its number has no name, 5 to 15 (30_encoding.md R84). -/
def AlgSel.wellFormed : AlgSel → Bool
  | .unset | .sha1 | .sha256 | .sha512 | .md5 => true
  | .unknown n => decide (5 ≤ n.toNat)

/-- A digit count is not 0, which is the sentinel's number (30_encoding.md R85). -/
def DigSel.wellFormed : DigSel → Bool
  | .unset => true
  | .count n => decide (n.toNat ≠ 0)

/-- Every operand of the command is well formed. -/
def Instr.wellFormed : Instr → Bool
  | .nop => true
  | .gen alg dig => alg.wellFormed && dig.wellFormed
  | .resolve alg dig => alg.wellFormed && dig.wellFormed
  | .encode => true
  | .hmac => true
  | .trunc => true
  | .reduce => true
  | .format => true
  | .zero => true

/-- `Instr.wellFormed` as a proposition. -/
abbrev WellFormed (i : Instr) : Prop := i.wellFormed = true

end Sys2Proof
end

