-- ==== Sys2Proof/Decode.lean ====
section
/-! DEFINITION. The command word: its fields, the total decoder, the encoder (30_encoding.md R80 to R90). -/

namespace Sys2Proof

/-- Bits 31:24, the opcode (30_encoding.md R81). -/
def opField (w : CmdWord) : BitVec 8 := w.extractLsb' 24 8

/-- Bits 23:8, reserved (30_encoding.md R81). -/
def rsvField (w : CmdWord) : BitVec 16 := w.extractLsb' 8 16

/-- Bits 7:4, the algorithm selector (30_encoding.md R81). -/
def algField (w : CmdWord) : Nibble := w.extractLsb' 4 4

/-- Bits 3:0, the digit-count selector (30_encoding.md R81). -/
def digField (w : CmdWord) : Nibble := w.extractLsb' 0 4

/-- The number of an algorithm selector, `cmd.ALG` (30_encoding.md R84). -/
def AlgSel.bits : AlgSel → Nibble
  | .unset => 0
  | .sha1 => 1
  | .sha256 => 2
  | .sha512 => 3
  | .md5 => 4
  | .unknown n => n

/-- The selector that a number names; every number names one (30_encoding.md R84). -/
def AlgSel.ofBits (a : Nibble) : AlgSel :=
  if a = 0 then .unset
  else if a = 1 then .sha1
  else if a = 2 then .sha256
  else if a = 3 then .sha512
  else if a = 4 then .md5
  else .unknown a

/-- The number of a digit-count selector, `cmd.DIG` (30_encoding.md R85). -/
def DigSel.bits : DigSel → Nibble
  | .unset => 0
  | .count n => n

/-- The digit-count selector that a number names; every number names one (30_encoding.md R85). -/
def DigSel.ofBits (d : Nibble) : DigSel := if d = 0 then .unset else .count d

/-- Why a word spells no command: the three clauses of 30_encoding.md R88. -/
inductive IllegalReason where
  /-- Field RSV is not 0. -/
  | reservedBits (rsv : BitVec 16)
  /-- ALG or DIG is not 0 in a word that is neither GEN nor RESOLVE. -/
  | operandBits (alg dig : Nibble)
  /-- OP is above 0x08. -/
  | noSuchOpcode (op : BitVec 8)
  deriving DecidableEq, Repr

/-- What the decoder answers: a command, or that the word is illegal and why (30_encoding.md R90). -/
inductive Decoded where
  | command (i : Instr)
  | illegal (why : IllegalReason)
  deriving DecidableEq, Repr

/-- `Decode(w)`, total, its tests in the order of 30_encoding.md R90. -/
def decode (w : CmdWord) : Decoded :=
  if rsvField w ≠ 0 then .illegal (.reservedBits (rsvField w))
  else if opField w = 0x01 then .command (.gen (AlgSel.ofBits (algField w)) (DigSel.ofBits (digField w)))
  else if opField w = 0x02 then .command (.resolve (AlgSel.ofBits (algField w)) (DigSel.ofBits (digField w)))
  else if algField w ≠ 0 ∨ digField w ≠ 0 then .illegal (.operandBits (algField w) (digField w))
  else if opField w = 0x00 then .command .nop
  else if opField w = 0x03 then .command .encode
  else if opField w = 0x04 then .command .hmac
  else if opField w = 0x05 then .command .trunc
  else if opField w = 0x06 then .command .reduce
  else if opField w = 0x07 then .command .format
  else if opField w = 0x08 then .command .zero
  else .illegal (.noSuchOpcode (opField w))

/-- The opcode of a command (30_encoding.md R87). -/
def Instr.opcode : Instr → BitVec 8
  | .nop => 0x00
  | .gen _ _ => 0x01
  | .resolve _ _ => 0x02
  | .encode => 0x03
  | .hmac => 0x04
  | .trunc => 0x05
  | .reduce => 0x06
  | .format => 0x07
  | .zero => 0x08

/-- A word laid out by its four fields (30_encoding.md R81). -/
def wordOfFields (op : BitVec 8) (rsv : BitVec 16) (alg dig : Nibble) : CmdWord := op ++ rsv ++ alg ++ dig

/-- `Encode(t)`: format I carries the two immediates, format Z carries none (30_encoding.md R82, R83, R90). -/
def encode (i : Instr) : CmdWord :=
  match i with
  | .gen alg dig => wordOfFields i.opcode 0 alg.bits dig.bits
  | .resolve alg dig => wordOfFields i.opcode 0 alg.bits dig.bits
  | .nop => wordOfFields i.opcode 0 0 0
  | .encode => wordOfFields i.opcode 0 0 0
  | .hmac => wordOfFields i.opcode 0 0 0
  | .trunc => wordOfFields i.opcode 0 0 0
  | .reduce => wordOfFields i.opcode 0 0 0
  | .format => wordOfFields i.opcode 0 0 0
  | .zero => wordOfFields i.opcode 0 0 0

/-- The command a decoder's answer holds, if any. -/
def Decoded.command? : Decoded → Option Instr
  | .command i => some i
  | .illegal _ => none

/-- The 32-bit word of an instruction whose table bits are `w`: bit numbers are those of the word itself, and bits at
`nbits` and above are 0. -/
def tableWord (nbits w : Nat) : CmdWord := BitVec.ofNat 32 (w % 2 ^ nbits)

/-- The instruction the decoder reads from an instruction of spec/opcode_table.json whose bits are `w`. -/
def decodeTableWord (nbits w : Nat) : Option Instr := (decode (tableWord nbits w)).command?

end Sys2Proof
end

