-- ==== Sys2Proof/Config.lean ====
section
/-! DEFINITION. The four hash functions and the named parameters an engine is built with (00_scope.md R8). -/

namespace Sys2Proof

/-- The four hash functions; "the set is closed" (41_encode_hmac.md R112). -/
inductive HashAlg where
  | sha1
  | sha256
  | sha512
  | md5
  deriving DecidableEq, Repr

/-- The parameters the spec leaves open (00_scope.md R8, 92_eei_decisions.md D9, D10, D14), as plain data: fixed for one
engine, any value for a statement. The fourth parameter of R8, `Hmac`, is the function `Machine.hmac`. -/
structure Config where
  /-- `KEY_MAX`, the capacity of the KEY buffer in bytes (D9). -/
  keyMax : Nat
  /-- `HASH_PRESENT(SHA1)` (D10). -/
  hasSha1 : Bool
  /-- `HASH_PRESENT(SHA256)` (D10). -/
  hasSha256 : Bool
  /-- `HASH_PRESENT(SHA512)` (D10). -/
  hasSha512 : Bool
  /-- `HASH_PRESENT(MD5)` (D10). -/
  hasMd5 : Bool
  /-- `DIAG_PRESENT`, whether the diagnostic read path exists at all (D14). -/
  diagPresent : Bool
  deriving DecidableEq, Repr

namespace Config

/-- `HASH_PRESENT(h)` (00_scope.md R8). -/
def hashPresent (c : Config) : HashAlg → Bool
  | .sha1 => c.hasSha1
  | .sha256 => c.hasSha256
  | .sha512 => c.hasSha512
  | .md5 => c.hasMd5

/-- The one constraint on the parameters: `KEY_MAX` is at least 64 (00_scope.md R8, D9). -/
abbrev Legal (c : Config) : Prop := 64 ≤ c.keyMax

/-- The defaults of the spec's table of open parameters, which its test vectors use (92_eei_decisions.md). DESIGN CHOICE,
log 1: `State.reset` is an engine built with them; no meaning and no statement rests on these values. -/
def standard : Config where
  keyMax := 256
  hasSha1 := true
  hasSha256 := true
  hasSha512 := true
  hasMd5 := true
  diagPresent := true

end Config
end Sys2Proof
end

