-- ==== Sys2Proof/Machine/State.lean ====
section
/-! DEFINITION. The state of the engine, the events that act on it, and the state after reset (10_state.md). -/

namespace Sys2Proof.Machine

/-- A byte buffer: its cells that are not 0x00, by rising index (20_memory.md R60; canonical form: `Memory.wf`). -/
abbrev Memory := List Host.Cell

/-- The twelve registers, numbers 0 to 11 (10_state.md R22). -/
inductive Reg where
  | cmd | status | ctrl | keylen | ctr | ealg | edig | dlen | offset | tval | code | passlen
  deriving DecidableEq, Repr

/-- The four byte buffers, identifiers 0 to 3 (20_memory.md R60). -/
inductive Buf where
  | key | msg | digest | pass
  deriving DecidableEq, Repr

/-- The five synchronous errors (60_exceptions.md R180). Each ends its command in a NEXT state (R183, R184). -/
inductive ErrCode where
  /-- ERR_ILLEGAL, raised by the decoder (R181). -/
  | illegal
  /-- ERR_HASH, raised by HMAC and GEN (41_encode_hmac.md R115). -/
  | hash
  /-- ERR_KEYLEN, raised by HMAC and GEN (41_encode_hmac.md R115). -/
  | keylen
  /-- ERR_WINDOW, raised by TRUNC and GEN (42_truncate_reduce_format.md R123). -/
  | window
  /-- ERR_RANGE, raised by FORMAT (42_truncate_reduce_format.md R129). -/
  | range
  deriving DecidableEq, Repr

/-- What acts on the state: the host's four kinds of event (10_state.md R21) and Reset (70_reset_and_hazards.md R200).
Register numbers, buffer identifiers and indices are numbers, so that an access to nothing can be written down (R22, R54);
a value is a natural number, so that a value wider than its register can be (R33). -/
inductive Event where
  /-- `HostWrite(reg, v)`. -/
  | hostWrite (reg v : Nat)
  /-- `HostRead(reg)`. -/
  | hostRead (reg : Nat)
  /-- `HostWriteByte(buf, i, b)`. -/
  | hostWriteByte (buf i : Nat) (b : Byte)
  /-- `HostReadByte(buf, i)`. -/
  | hostReadByte (buf i : Nat)
  /-- `Reset`. -/
  | reset
  deriving DecidableEq, Repr

/-- The reasons a step can stop with a fault: none. No rule of the spec stops the engine: an error is "a defined outcome with
a next state, not a stuck state and not a refusal" (60_exceptions.md R184), and 93_implementation_defined.md Part 2 says that
every command from every reachable state has exactly one next state. Nothing raises one, which is safe. -/
inductive Fault where
  deriving DecidableEq, Repr

/-- The reasons a step can be refused. -/
inductive Refusal where
  /-- An instruction that has no meaning yet, by its mnemonic. Raised by an arm of `exec` only, and no arm raises it now.
  Safe: the model stops where the engine goes on. -/
  | notModelled (mnemonic : String)
  deriving DecidableEq, Repr

/-- The whole state (10_state.md R20): eleven registers (CMD stores nothing, R40), four buffers; and beside them the model's
own fields `config`, `pending` and `replies`. -/
structure State where
  /-- STATUS, register 1: ERR in bits 3:0, the rest reserved (R41). -/
  status : BitVec 32
  /-- CTRL, register 2: DIAG in bit 0, the rest reserved (R42). -/
  ctrl : BitVec 32
  /-- KEYLEN, register 3 (R24). -/
  keylen : BitVec 16
  /-- CTR, register 4 (R23). -/
  ctr : BitVec 64
  /-- EALG, register 5: the effective hash function, whose number the host reads (R25; DEDUCED, log 6). -/
  ealg : HashAlg
  /-- EDIG, register 6 (R26). -/
  edig : BitVec 4
  /-- DLEN, register 7 (R27). -/
  dlen : BitVec 7
  /-- OFFSET, register 8 (R28). -/
  offset : BitVec 4
  /-- TVAL, register 9 (R29). -/
  tval : BitVec 31
  /-- CODE, register 10 (R31). -/
  code : BitVec 31
  /-- PASSLEN, register 11 (R32). -/
  passlen : BitVec 4
  /-- KEY, buffer 0, `KEY_MAX` bytes (R50). -/
  key : Memory
  /-- MSG, buffer 1, 8 bytes (R51). -/
  msg : Memory
  /-- DIGEST, buffer 2, 64 bytes (R52). -/
  digest : Memory
  /-- PASS, buffer 3, 16 bytes (R53). -/
  pass : Memory
  /-- The parameters this engine was built with; no step changes them (00_scope.md R8; DESIGN CHOICE, log 1). -/
  config : Config
  /-- The host's events not served yet, oldest first: the total order of 20_memory.md R68 (DESIGN CHOICE, log 2). -/
  pending : List Event
  /-- The values the host's reads have returned, oldest first (10_state.md R21; DESIGN CHOICE, log 2). -/
  replies : List Nat
  deriving DecidableEq, Repr

/-- The machine right after reset (10_state.md R57): every register 0 but EALG = 1 (SHA-1) and EDIG = 6, every byte of every
buffer 0x00. The three last fields are the model's own (DESIGN CHOICE, logs 1 and 2). -/
def State.reset : State where
  status := 0
  ctrl := 0
  keylen := 0
  ctr := 0
  ealg := .sha1
  edig := 6
  dlen := 0
  offset := 0
  tval := 0
  code := 0
  passlen := 0
  key := []
  msg := []
  digest := []
  pass := []
  config := Config.standard
  pending := []
  replies := []

end Sys2Proof.Machine
end

