-- ==== Sys2Proof/Machine/Memory.lean ====
section
/-! DEFINITION. Bytes and numbers, and the accesses to one byte buffer (20_memory.md R60 to R66, 41_encode_hmac.md R110). -/

namespace Sys2Proof.Machine

/-- The number that bytes spell, the first the most significant (20_memory.md R61). -/
def beNat (bs : List Byte) : Nat := bs.foldl (fun acc b => acc * 256 + b.toNat) 0

/-- The `n` bytes of a number, the most significant first: byte `k` is `(v >> (8*(n-1-k))) & 0xFF` (20_memory.md R61). -/
def beBytes (n v : Nat) : List Byte := (List.range n).map fun k => BitVec.ofNat 8 (v >>> (8 * (n - 1 - k)))

/-- What an unlisted index of a buffer reads as: 0x00, the reset contents of all four buffers (10_state.md R57; log 5). -/
def unlistedByte : Byte := 0x00

/-- One byte of a buffer. -/
def Memory.read (m : Memory) (a : Nat) : Byte :=
  match m with
  | [] => unlistedByte
  | (k, v) :: rest => if a = k then v else Memory.read rest a

/-- Put a cell before the first cell of a higher index. -/
def Memory.insertCell (m : Memory) (a : Nat) (b : Byte) : Memory :=
  match m with
  | [] => [(a, b)]
  | (k, v) :: rest => if a < k then (a, b) :: (k, v) :: rest else (k, v) :: Memory.insertCell rest a b

/-- The buffer without the cell of an index. -/
def Memory.eraseCell (m : Memory) (a : Nat) : Memory := m.filter fun c => decide (c.1 ≠ a)

/-- Write one byte; writing what an unlisted index reads as removes the cell. -/
def Memory.write (m : Memory) (a : Nat) (b : Byte) : Memory :=
  if b = unlistedByte then m.eraseCell a else (m.eraseCell a).insertCell a b

/-- The canonical form of a buffer of `size` bytes: indices strictly rising and below `size`, no cell that an unlisted index
would read as. -/
def Memory.wf (size : Nat) (m : Memory) : Bool :=
  decide (m.Pairwise fun c c' => c.1 < c'.1) && m.all fun c => decide (c.1 < size) && decide (c.2 ≠ unlistedByte)

/-- The bytes `m[i..i+n-1]` (00_scope.md R10). -/
def Memory.readBytes (m : Memory) (i n : Nat) : List Byte := (List.range n).map fun k => m.read (i + k)

/-- Write a byte sequence at index `i` and on. -/
def Memory.writeBytes (m : Memory) (i : Nat) (bs : List Byte) : Memory :=
  match bs with
  | [] => m
  | b :: rest => Memory.writeBytes (m.write i b) (i + 1) rest

/-- `MemRead(BUF, i, n)`, big-endian (20_memory.md R61). -/
def Memory.memRead (m : Memory) (i n : Nat) : Nat := beNat (m.readBytes i n)

/-- `MemWrite(BUF, i, n, v)`, big-endian (20_memory.md R61). -/
def Memory.memWrite (m : Memory) (i n v : Nat) : Memory := m.writeBytes i (beBytes n v)

/-- A byte sequence filled up with 0x00 on the right to `n` bytes. -/
def padTo (n : Nat) (bs : List Byte) : List Byte := bs ++ List.replicate (n - bs.length) 0x00

/-- `Be64(c)`, the message of a counter: 8 bytes, big-endian (41_encode_hmac.md R110). -/
def be64 (c : BitVec 64) : List Byte := beBytes 8 c.toNat

end Sys2Proof.Machine
end

