-- ==== Sys2Proof/Machine/Hash.lean ====
section
/-! DEFINITION. What the hash functions share: sizes, padding, cutting into words (41_encode_hmac.md R112, 48_hash_functions.md
R151). The spec marks R150 to R157 "from general knowledge" (PRESUMED, log 8). -/

namespace Sys2Proof.Machine

/-- The identifier of a hash function, as EALG holds it (10_state.md R25). -/
def hashNumber : HashAlg → BitVec 4
  | .sha1 => 1
  | .sha256 => 2
  | .sha512 => 3
  | .md5 => 4

/-- `L(h)`, the digest length in bytes (41_encode_hmac.md R112). -/
def digestLen : HashAlg → Nat
  | .sha1 => 20
  | .sha256 => 32
  | .sha512 => 64
  | .md5 => 16

/-- `B(h)`, the block size in bytes (41_encode_hmac.md R112). -/
def blockLen : HashAlg → Nat
  | .sha1 => 64
  | .sha256 => 64
  | .sha512 => 128
  | .md5 => 64

/-- The number that bytes spell, the first the least significant. -/
def leNat (bs : List Byte) : Nat := beNat bs.reverse

/-- The `n` bytes of a number, the least significant first. -/
def leBytes (n v : Nat) : List Byte := (beBytes n v).reverse

/-- The smallest `k` with `(len + 1 + k) mod B = B - LB` (48_hash_functions.md R151). -/
def padZeros (B LB len : Nat) : Nat := (2 * B - LB - 1 - len % B) % B

/-- A message padded to whole blocks of `B` bytes: 0x80, zeros, then its bit length in `LB` bytes, which `lengthBytes` writes
big-endian or little-endian (48_hash_functions.md R151). -/
def padMessage (B LB : Nat) (lengthBytes : Nat → Nat → List Byte) (m : List Byte) : List Byte :=
  m ++ 0x80 :: (List.replicate (padZeros B LB m.length) 0x00 ++ lengthBytes LB (8 * m.length))

/-- The first `n` pieces of length `k` of a list. -/
def pieces {α : Type} (k : Nat) : Nat → List α → List (List α)
  | 0, _ => []
  | n + 1, l => l.take k :: pieces k n (l.drop k)

/-- The blocks of `B` bytes of a padded message. -/
def blocksOf (B : Nat) (m : List Byte) : List (List Byte) := pieces B (m.length / B) m

/-- The 16 words of a block, `bytes` bytes each, read by `toNat` (48_hash_functions.md R151). -/
def wordsOf (w bytes : Nat) (toNat : List Byte → Nat) (block : List Byte) : List (BitVec w) :=
  (pieces bytes 16 block).map fun bs => BitVec.ofNat w (toNat bs)

/-- `W[t-k]` in a message schedule held newest first. -/
def back {w : Nat} (newestFirst : List (BitVec w)) (k : Nat) : BitVec w := newestFirst.getD (k - 1) 0

end Sys2Proof.Machine
end

