-- ==== Sys2Proof/Machine/Md5.lean ====
section
/-! DEFINITION. MD5, little-endian throughout (48_hash_functions.md R155; "from general knowledge, not in source": PRESUMED,
log 8). -/

namespace Sys2Proof.Machine

/-- The chaining value and the working variables of MD5. -/
structure Md5State where
  a : BitVec 32
  b : BitVec 32
  c : BitVec 32
  d : BitVec 32
  deriving DecidableEq, Repr

/-- The initial value `A0, B0, C0, D0` (48_hash_functions.md R155). -/
def md5Init : Md5State := ⟨0x67452301, 0xefcdab89, 0x98badcfe, 0x10325476⟩

/-- The constants `T[0..63]` (48_hash_functions.md R155). -/
def md5T : List (BitVec 32) :=
  [0xd76aa478, 0xe8c7b756, 0x242070db, 0xc1bdceee, 0xf57c0faf, 0x4787c62a, 0xa8304613, 0xfd469501] ++
  [0x698098d8, 0x8b44f7af, 0xffff5bb1, 0x895cd7be, 0x6b901122, 0xfd987193, 0xa679438e, 0x49b40821] ++
  [0xf61e2562, 0xc040b340, 0x265e5a51, 0xe9b6c7aa, 0xd62f105d, 0x02441453, 0xd8a1e681, 0xe7d3fbc8] ++
  [0x21e1cde6, 0xc33707d6, 0xf4d50d87, 0x455a14ed, 0xa9e3e905, 0xfcefa3f8, 0x676f02d9, 0x8d2a4c8a] ++
  [0xfffa3942, 0x8771f681, 0x6d9d6122, 0xfde5380c, 0xa4beea44, 0x4bdecfa9, 0xf6bb4b60, 0xbebfbc70] ++
  [0x289b7ec6, 0xeaa127fa, 0xd4ef3085, 0x04881d05, 0xd9d4d039, 0xe6db99e5, 0x1fa27cf8, 0xc4ac5665] ++
  [0xf4292244, 0x432aff97, 0xab9423a7, 0xfc93a039, 0x655b59c3, 0x8f0ccc92, 0xffeff47d, 0x85845dd1] ++
  [0x6fa87e4f, 0xfe2ce6e0, 0xa3014314, 0x4e0811a1, 0xf7537e82, 0xbd3af235, 0x2ad7d2bb, 0xeb86d391]

/-- The function `F` of step `i`, before the additions (48_hash_functions.md R155). -/
def md5F (i : Nat) (b c d : BitVec 32) : BitVec 32 :=
  if i < 16 then (b &&& c) ||| (~~~b &&& d)
  else if i < 32 then (d &&& b) ||| (~~~d &&& c)
  else if i < 48 then b ^^^ c ^^^ d
  else c ^^^ (b ||| ~~~d)

/-- The word index `g` of step `i` (48_hash_functions.md R155). -/
def md5G (i : Nat) : Nat :=
  if i < 16 then i else if i < 32 then (5 * i + 1) % 16 else if i < 48 then (3 * i + 5) % 16 else (7 * i) % 16

/-- The shift amount `s[i]` (48_hash_functions.md R155). -/
def md5Shift (i : Nat) : Nat :=
  let four := if i < 16 then [7, 12, 17, 22] else if i < 32 then [5, 9, 14, 20] else if i < 48 then [4, 11, 16, 23]
    else [6, 10, 15, 21]
  four.getD (i % 4) 0

/-- The steps from `i` on, one for each constant (48_hash_functions.md R155). -/
def md5Steps (x : List (BitVec 32)) : Nat → List (BitVec 32) → Md5State → Md5State
  | _, [], s => s
  | i, t :: ts, s =>
    let f := md5F i s.b s.c s.d + s.a + t + x.getD (md5G i) 0
    md5Steps x (i + 1) ts ⟨s.d, s.b + f.rotateLeft (md5Shift i), s.b, s.c⟩

/-- One block's update of the chaining value (48_hash_functions.md R155). -/
def md5Block (h : Md5State) (block : List Byte) : Md5State :=
  let s := md5Steps (wordsOf 32 4 leNat block) 0 md5T h
  ⟨h.a + s.a, h.b + s.b, h.c + s.c, h.d + s.d⟩

/-- MD5, 16 bytes (48_hash_functions.md R151, R155). -/
def md5 (m : List Byte) : List Byte :=
  let h := (blocksOf 64 (padMessage 64 8 leBytes m)).foldl md5Block md5Init
  [h.a, h.b, h.c, h.d].flatMap fun x => leBytes 4 x.toNat

end Sys2Proof.Machine
end

