-- ==== Sys2Proof/Machine/Sha1.lean ====
section
/-! DEFINITION. SHA-1 (48_hash_functions.md R152; "from general knowledge, not in source": PRESUMED, log 8). -/

namespace Sys2Proof.Machine

/-- The chaining value and the working variables of SHA-1. -/
structure Sha1State where
  a : BitVec 32
  b : BitVec 32
  c : BitVec 32
  d : BitVec 32
  e : BitVec 32
  deriving DecidableEq, Repr

/-- The initial value `H0..H4` (48_hash_functions.md R152). -/
def sha1Init : Sha1State := ⟨0x67452301, 0xEFCDAB89, 0x98BADCFE, 0x10325476, 0xC3D2E1F0⟩

/-- `n` further words of the message schedule, newest first (48_hash_functions.md R152). -/
def sha1Schedule : Nat → List (BitVec 32) → List (BitVec 32)
  | 0, ws => ws
  | n + 1, ws => sha1Schedule n ((back ws 3 ^^^ back ws 8 ^^^ back ws 14 ^^^ back ws 16).rotateLeft 1 :: ws)

/-- `f_t(b, c, d)` (48_hash_functions.md R152). -/
def sha1F (t : Nat) (b c d : BitVec 32) : BitVec 32 :=
  if t < 20 then (b &&& c) ||| (~~~b &&& d)
  else if t < 40 then b ^^^ c ^^^ d
  else if t < 60 then (b &&& c) ||| (b &&& d) ||| (c &&& d)
  else b ^^^ c ^^^ d

/-- `K_t` (48_hash_functions.md R152). -/
def sha1K (t : Nat) : BitVec 32 :=
  if t < 20 then 0x5A827999 else if t < 40 then 0x6ED9EBA1 else if t < 60 then 0x8F1BBCDC else 0xCA62C1D6

/-- The rounds from `t` on, one for each word of the schedule (48_hash_functions.md R152). -/
def sha1Rounds : Nat → List (BitVec 32) → Sha1State → Sha1State
  | _, [], s => s
  | t, w :: ws, s =>
    sha1Rounds (t + 1) ws
      ⟨s.a.rotateLeft 5 + sha1F t s.b s.c s.d + s.e + sha1K t + w, s.a, s.b.rotateLeft 30, s.c, s.d⟩

/-- One block's update of the chaining value (48_hash_functions.md R152). -/
def sha1Block (h : Sha1State) (block : List Byte) : Sha1State :=
  let s := sha1Rounds 0 (sha1Schedule 64 (wordsOf 32 4 beNat block).reverse).reverse h
  ⟨h.a + s.a, h.b + s.b, h.c + s.c, h.d + s.d, h.e + s.e⟩

/-- SHA-1, 20 bytes (48_hash_functions.md R151, R152). -/
def sha1 (m : List Byte) : List Byte :=
  let h := (blocksOf 64 (padMessage 64 8 beBytes m)).foldl sha1Block sha1Init
  [h.a, h.b, h.c, h.d, h.e].flatMap fun x => beBytes 4 x.toNat

end Sys2Proof.Machine
end

