-- ==== Sys2Proof/Machine/Sha2.lean ====
section
/-! DEFINITION. SHA-256 and SHA-512: one schedule and one round on words of width `w`, with the two sets of functions and
constants (48_hash_functions.md R153, R154; "from general knowledge, not in source": PRESUMED, log 8). -/

namespace Sys2Proof.Machine

/-- The chaining value and the working variables of a SHA-2 function on `w`-bit words. -/
structure Sha2State (w : Nat) where
  a : BitVec w
  b : BitVec w
  c : BitVec w
  d : BitVec w
  e : BitVec w
  f : BitVec w
  g : BitVec w
  h : BitVec w
  deriving DecidableEq, Repr

/-- `Ch(x, y, z)` (48_hash_functions.md R153). -/
def sha2Ch {w : Nat} (x y z : BitVec w) : BitVec w := (x &&& y) ^^^ (~~~x &&& z)

/-- `Maj(x, y, z)` (48_hash_functions.md R153). -/
def sha2Maj {w : Nat} (x y z : BitVec w) : BitVec w := (x &&& y) ^^^ (x &&& z) ^^^ (y &&& z)

/-- `S0` and `S1`: three rotations to the right (48_hash_functions.md R153, R154). -/
def sha2Big {w : Nat} (i j k : Nat) (x : BitVec w) : BitVec w := x.rotateRight i ^^^ x.rotateRight j ^^^ x.rotateRight k

/-- `s0` and `s1`: two rotations and one shift to the right (48_hash_functions.md R153, R154). -/
def sha2Small {w : Nat} (i j k : Nat) (x : BitVec w) : BitVec w := x.rotateRight i ^^^ x.rotateRight j ^^^ (x >>> k)

/-- `n` further words of the message schedule, newest first, with the functions `s0` and `s1` (48_hash_functions.md R153). -/
def sha2Schedule {w : Nat} (s0 s1 : BitVec w → BitVec w) : Nat → List (BitVec w) → List (BitVec w)
  | 0, ws => ws
  | n + 1, ws => sha2Schedule s0 s1 n ((s1 (back ws 2) + back ws 7 + s0 (back ws 15) + back ws 16) :: ws)

/-- One round with constant `k` and schedule word `x` (48_hash_functions.md R153). -/
def sha2Round {w : Nat} (S0 S1 : BitVec w → BitVec w) (s : Sha2State w) (kx : BitVec w × BitVec w) : Sha2State w :=
  let t1 := s.h + S1 s.e + sha2Ch s.e s.f s.g + kx.1 + kx.2
  let t2 := S0 s.a + sha2Maj s.a s.b s.c
  ⟨t1 + t2, s.a, s.b, s.c, s.d + t1, s.e, s.f, s.g⟩

/-- The sum of a chaining value and the working variables, word by word (48_hash_functions.md R153). -/
def Sha2State.add {w : Nat} (x y : Sha2State w) : Sha2State w :=
  ⟨x.a + y.a, x.b + y.b, x.c + y.c, x.d + y.d, x.e + y.e, x.f + y.f, x.g + y.g, x.h + y.h⟩

/-- The words of a chaining value in order. -/
def Sha2State.words {w : Nat} (s : Sha2State w) : List (BitVec w) := [s.a, s.b, s.c, s.d, s.e, s.f, s.g, s.h]

/-- The initial value of SHA-256 (48_hash_functions.md R153). -/
def sha256Init : Sha2State 32 :=
  ⟨0x6a09e667, 0xbb67ae85, 0x3c6ef372, 0xa54ff53a, 0x510e527f, 0x9b05688c, 0x1f83d9ab, 0x5be0cd19⟩

/-- The constants `K[0..63]` of SHA-256 (48_hash_functions.md R153). -/
def sha256K : List (BitVec 32) :=
  [0x428a2f98, 0x71374491, 0xb5c0fbcf, 0xe9b5dba5, 0x3956c25b, 0x59f111f1, 0x923f82a4, 0xab1c5ed5] ++
  [0xd807aa98, 0x12835b01, 0x243185be, 0x550c7dc3, 0x72be5d74, 0x80deb1fe, 0x9bdc06a7, 0xc19bf174] ++
  [0xe49b69c1, 0xefbe4786, 0x0fc19dc6, 0x240ca1cc, 0x2de92c6f, 0x4a7484aa, 0x5cb0a9dc, 0x76f988da] ++
  [0x983e5152, 0xa831c66d, 0xb00327c8, 0xbf597fc7, 0xc6e00bf3, 0xd5a79147, 0x06ca6351, 0x14292967] ++
  [0x27b70a85, 0x2e1b2138, 0x4d2c6dfc, 0x53380d13, 0x650a7354, 0x766a0abb, 0x81c2c92e, 0x92722c85] ++
  [0xa2bfe8a1, 0xa81a664b, 0xc24b8b70, 0xc76c51a3, 0xd192e819, 0xd6990624, 0xf40e3585, 0x106aa070] ++
  [0x19a4c116, 0x1e376c08, 0x2748774c, 0x34b0bcb5, 0x391c0cb3, 0x4ed8aa4a, 0x5b9cca4f, 0x682e6ff3] ++
  [0x748f82ee, 0x78a5636f, 0x84c87814, 0x8cc70208, 0x90befffa, 0xa4506ceb, 0xbef9a3f7, 0xc67178f2]

/-- One block's update of the chaining value of SHA-256 (48_hash_functions.md R153). -/
def sha256Block (h : Sha2State 32) (block : List Byte) : Sha2State 32 :=
  let ws := (sha2Schedule (sha2Small 7 18 3) (sha2Small 17 19 10) 48 (wordsOf 32 4 beNat block).reverse).reverse
  h.add ((sha256K.zip ws).foldl (sha2Round (sha2Big 2 13 22) (sha2Big 6 11 25)) h)

/-- SHA-256, 32 bytes (48_hash_functions.md R151, R153). -/
def sha256 (m : List Byte) : List Byte :=
  ((blocksOf 64 (padMessage 64 8 beBytes m)).foldl sha256Block sha256Init).words.flatMap fun x => beBytes 4 x.toNat

/-- The initial value of SHA-512 (48_hash_functions.md R154). -/
def sha512Init : Sha2State 64 :=
  ⟨0x6a09e667f3bcc908, 0xbb67ae8584caa73b, 0x3c6ef372fe94f82b, 0xa54ff53a5f1d36f1,
   0x510e527fade682d1, 0x9b05688c2b3e6c1f, 0x1f83d9abfb41bd6b, 0x5be0cd19137e2179⟩

/-- The constants `K[0..79]` of SHA-512 (48_hash_functions.md R154). -/
def sha512K : List (BitVec 64) :=
  [0x428a2f98d728ae22, 0x7137449123ef65cd, 0xb5c0fbcfec4d3b2f, 0xe9b5dba58189dbbc] ++
  [0x3956c25bf348b538, 0x59f111f1b605d019, 0x923f82a4af194f9b, 0xab1c5ed5da6d8118] ++
  [0xd807aa98a3030242, 0x12835b0145706fbe, 0x243185be4ee4b28c, 0x550c7dc3d5ffb4e2] ++
  [0x72be5d74f27b896f, 0x80deb1fe3b1696b1, 0x9bdc06a725c71235, 0xc19bf174cf692694] ++
  [0xe49b69c19ef14ad2, 0xefbe4786384f25e3, 0x0fc19dc68b8cd5b5, 0x240ca1cc77ac9c65] ++
  [0x2de92c6f592b0275, 0x4a7484aa6ea6e483, 0x5cb0a9dcbd41fbd4, 0x76f988da831153b5] ++
  [0x983e5152ee66dfab, 0xa831c66d2db43210, 0xb00327c898fb213f, 0xbf597fc7beef0ee4] ++
  [0xc6e00bf33da88fc2, 0xd5a79147930aa725, 0x06ca6351e003826f, 0x142929670a0e6e70] ++
  [0x27b70a8546d22ffc, 0x2e1b21385c26c926, 0x4d2c6dfc5ac42aed, 0x53380d139d95b3df] ++
  [0x650a73548baf63de, 0x766a0abb3c77b2a8, 0x81c2c92e47edaee6, 0x92722c851482353b] ++
  [0xa2bfe8a14cf10364, 0xa81a664bbc423001, 0xc24b8b70d0f89791, 0xc76c51a30654be30] ++
  [0xd192e819d6ef5218, 0xd69906245565a910, 0xf40e35855771202a, 0x106aa07032bbd1b8] ++
  [0x19a4c116b8d2d0c8, 0x1e376c085141ab53, 0x2748774cdf8eeb99, 0x34b0bcb5e19b48a8] ++
  [0x391c0cb3c5c95a63, 0x4ed8aa4ae3418acb, 0x5b9cca4f7763e373, 0x682e6ff3d6b2b8a3] ++
  [0x748f82ee5defb2fc, 0x78a5636f43172f60, 0x84c87814a1f0ab72, 0x8cc702081a6439ec] ++
  [0x90befffa23631e28, 0xa4506cebde82bde9, 0xbef9a3f7b2c67915, 0xc67178f2e372532b] ++
  [0xca273eceea26619c, 0xd186b8c721c0c207, 0xeada7dd6cde0eb1e, 0xf57d4f7fee6ed178] ++
  [0x06f067aa72176fba, 0x0a637dc5a2c898a6, 0x113f9804bef90dae, 0x1b710b35131c471b] ++
  [0x28db77f523047d84, 0x32caab7b40c72493, 0x3c9ebe0a15c9bebc, 0x431d67c49c100d4c] ++
  [0x4cc5d4becb3e42b6, 0x597f299cfc657e2a, 0x5fcb6fab3ad6faec, 0x6c44198c4a475817]

/-- One block's update of the chaining value of SHA-512 (48_hash_functions.md R154). -/
def sha512Block (h : Sha2State 64) (block : List Byte) : Sha2State 64 :=
  let ws := (sha2Schedule (sha2Small 1 8 7) (sha2Small 19 61 6) 64 (wordsOf 64 8 beNat block).reverse).reverse
  h.add ((sha512K.zip ws).foldl (sha2Round (sha2Big 28 34 39) (sha2Big 14 18 41)) h)

/-- SHA-512, 64 bytes (48_hash_functions.md R151, R154). -/
def sha512 (m : List Byte) : List Byte :=
  ((blocksOf 128 (padMessage 128 16 beBytes m)).foldl sha512Block sha512Init).words.flatMap fun x => beBytes 8 x.toNat

end Sys2Proof.Machine
end

