-- ==== Sys2Proof/Machine/KeyedHash.lean ====
section
/-! DEFINITION. The keyed hash `Hmac`, the configuration function of 00_scope.md R8 at its standard definition
(41_encode_hmac.md R113, 48_hash_functions.md R150; PRESUMED, log 8). -/

namespace Sys2Proof.Machine

/-- `Hash_h(m)`, the hash function of an identifier (41_encode_hmac.md R112). -/
def hashOf : HashAlg → List Byte → List Byte
  | .sha1, m => sha1 m
  | .sha256, m => sha256 m
  | .sha512, m => sha512 m
  | .md5, m => md5 m

/-- `K0`: a key longer than the block is hashed first, and the rest of the block is zeros (48_hash_functions.md R150). -/
def hmacKeyBlock (h : HashAlg) (key : List Byte) : List Byte :=
  padTo (blockLen h) (if blockLen h < key.length then hashOf h key else key)

/-- `Hmac(h, key, msg)` (48_hash_functions.md R150). The rules of the engine use only its length, `digestLen h`
(41_encode_hmac.md R113). -/
def hmac (h : HashAlg) (key msg : List Byte) : List Byte :=
  let k0 := hmacKeyBlock h key
  let ipad := k0.map (· ^^^ 0x36)
  let opad := k0.map (· ^^^ 0x5C)
  hashOf h (opad ++ hashOf h (ipad ++ msg))

end Sys2Proof.Machine
end

