-- ==== Sys2Proof/Machine/Flags.lean ====
section
/-! DEFINITION. The fields of STATUS and CTRL (10_state.md R41 to R45). The engine has no other flag (R45). -/

namespace Sys2Proof.Machine

/-- The number of an error (60_exceptions.md R180). -/
def ErrCode.number : ErrCode → BitVec 4
  | .illegal => 1
  | .hash => 2
  | .keylen => 3
  | .window => 4
  | .range => 5

/-- Field ERR, bits 3:0 of STATUS (10_state.md R41). -/
def State.err (s : State) : BitVec 4 := s.status.extractLsb' 0 4

/-- STATUS with its field ERR replaced; the reserved bits stay (10_state.md R41; DEDUCED, log 13). -/
def withErr (status : BitVec 32) (e : BitVec 4) : BitVec 32 := status.extractLsb' 4 28 ++ e

/-- `r[STATUS].ERR <- e` (10_state.md R41). -/
def State.setErr (s : State) (e : BitVec 4) : State := { s with status := withErr s.status e }

/-- Field DIAG, bit 0 of CTRL; hardwired to 0 when `DIAG_PRESENT` is false (10_state.md R42). -/
def State.diag (s : State) : Bool := s.config.diagPresent && s.ctrl.getLsbD 0

/-- What CTRL holds after a host write of `v`: bit 0 of `v` where the diagnostic path exists, every reserved bit 0
(10_state.md R42, R43). -/
def ctrlOfWrite (diagPresent : Bool) (v : Nat) : BitVec 32 := if diagPresent && v.testBit 0 then 1 else 0

end Sys2Proof.Machine
end

