-- ==== Sys2Proof/Machine/Ops.lean ====
section
/-! DEFINITION. The shared operations of the commands: success, the error effect, running step after step, the host's reply,
reset (60_exceptions.md R183, 43_generate_and_system.md R140, 70_reset_and_hazards.md R200). -/

namespace Sys2Proof.Machine

/-- The end of a command that completes: `r[STATUS].ERR <- 0` (10_state.md R41). -/
def State.succeed (s : State) : State := s.setErr 0

/-- PASS with all 16 bytes 0x00 (60_exceptions.md R183). -/
def clearedPass (pass : Memory) : Memory := pass.writeBytes 0 (padTo 16 [])

/-- TAKING AN ERROR, `raise Fail(code)` (60_exceptions.md R183): ERR holds the code, PASS is cleared, PASSLEN is 0, and
nothing else changes. Nothing is saved, so there is no return from it (R189). -/
def State.fail (s : State) (e : ErrCode) : State :=
  { s.setErr e.number with pass := clearedPass s.pass, passlen := 0 }

/-- How a command ended: completed, or abandoned by `raise Fail` with the error effect applied. Both are next states
(60_exceptions.md R184). -/
inductive Ended where
  | done (s : State)
  | failed (s : State)
  deriving DecidableEq, Repr

/-- The state a command leaves, however it ended. -/
def Ended.state : Ended → State
  | .done s => s
  | .failed s => s

/-- Go on with a further step unless one before it failed (43_generate_and_system.md R140). -/
def Ended.andThen (r : Ended) (f : State → Ended) : Ended :=
  match r with
  | .done s => f s
  | .failed s => .failed s

/-- Hand a value to the host (10_state.md R21); the engine's own state is unchanged (20_memory.md R65). -/
def State.reply (s : State) (v : Nat) : State := { s with replies := s.replies ++ [v] }

/-- The effect of the event Reset (70_reset_and_hazards.md R200): every register and buffer at its reset value. What is not
engine state stays: the parameters, and what the host has still to do and has seen (DEDUCED, log 7). -/
def State.afterReset (s : State) : State :=
  { State.reset with config := s.config, pending := s.pending, replies := s.replies }

end Sys2Proof.Machine
end

