-- ==== Sys2Proof/Machine/Operands.lean ====
section
/-! DEFINITION. The operands of the commands and of the host's accesses: the two immediates, the secret, the message, the
truncation window, a register or a buffer byte named by number (30_encoding.md R86, 10_state.md R22, R33, R44, R50 to R54). -/

namespace Sys2Proof.Machine

/-- `ResolveDigits(d)`: the sentinel 0 is 6, every other count is itself (40_resolve.md R101). -/
def resolveDigits (d : Nibble) : BitVec 4 := if d = 0 then 6 else d

/-- `ResolveAlg(a)`: SHA-1 is the default arm, for 0, 1 and 5 to 15 (40_resolve.md R102). -/
def resolveAlg (a : Nibble) : HashAlg :=
  if a = 2 then .sha256 else if a = 3 then .sha512 else if a = 4 then .md5 else .sha1

/-- The secret, `KEY[0..r[KEYLEN]-1]` (10_state.md R24). -/
def State.secret (s : State) : List Byte := s.key.readBytes 0 s.keylen.toNat

/-- The message of step 4, `MSG[0..7]` (10_state.md R51). -/
def State.message (s : State) : List Byte := s.msg.readBytes 0 8

/-- `WindowOk(n, off)`: the four bytes at `off` lie inside a digest of `n` bytes (42_truncate_reduce_format.md R121). -/
def windowOk (n off : Nat) : Bool := decide (1 ≤ n) && decide (n ≤ 64) && decide (off + 4 ≤ n)

/-- The register that a number names; numbers above 11 name nothing (10_state.md R22). -/
def Reg.ofNumber : Nat → Option Reg
  | 0 => some .cmd
  | 1 => some .status
  | 2 => some .ctrl
  | 3 => some .keylen
  | 4 => some .ctr
  | 5 => some .ealg
  | 6 => some .edig
  | 7 => some .dlen
  | 8 => some .offset
  | 9 => some .tval
  | 10 => some .code
  | 11 => some .passlen
  | _ => none

/-- The buffer that an identifier names; identifiers above 3 name nothing (20_memory.md R60, 10_state.md R54). -/
def Buf.ofNumber : Nat → Option Buf
  | 0 => some .key
  | 1 => some .msg
  | 2 => some .digest
  | 3 => some .pass
  | _ => none

/-- The size of a buffer in bytes (20_memory.md R60). -/
def bufSize (c : Config) : Buf → Nat
  | .key => c.keyMax
  | .msg => 8
  | .digest => 64
  | .pass => 16

/-- A value that a host read returns only while CTRL.DIAG = 1, and as 0 otherwise (10_state.md R44). -/
def State.gated (s : State) (v : Nat) : Nat := if s.diag then v else 0

/-- `HostRead`, the value of a register: zero-extended, reserved bits 0, OFFSET and TVAL gated, CMD 0 (10_state.md R22, R29,
R40 to R44). -/
def State.readReg (s : State) : Reg → Nat
  | .cmd => 0
  | .status => s.err.toNat
  | .ctrl => s.diag.toNat
  | .keylen => s.keylen.toNat
  | .ctr => s.ctr.toNat
  | .ealg => (hashNumber s.ealg).toNat
  | .edig => s.edig.toNat
  | .dlen => s.dlen.toNat
  | .offset => s.gated s.offset.toNat
  | .tval => s.gated s.tval.toNat
  | .code => s.code.toNat
  | .passlen => s.passlen.toNat

/-- `HostWrite` to a register other than CMD: the low bits that fit are stored, a read-only register ignores the write
(10_state.md R22, R33, R42). -/
def State.writeReg (s : State) (r : Reg) (v : Nat) : State :=
  match r with
  | .ctrl => { s with ctrl := ctrlOfWrite s.config.diagPresent v }
  | .keylen => { s with keylen := BitVec.ofNat 16 v }
  | .ctr => { s with ctr := BitVec.ofNat 64 v }
  | .dlen => { s with dlen := BitVec.ofNat 7 v }
  | .tval => { s with tval := BitVec.ofNat 31 v }
  | .cmd | .status | .ealg | .edig | .offset | .code | .passlen => s

/-- `HostReadByte` inside a buffer: KEY reads 0 always, MSG and DIGEST are gated, PASS is open (10_state.md R44, R50 to
R53). -/
def State.readBufByte (s : State) (b : Buf) (i : Nat) : Nat :=
  match b with
  | .key => 0
  | .msg => s.gated (s.msg.read i).toNat
  | .digest => s.gated (s.digest.read i).toNat
  | .pass => (s.pass.read i).toNat

/-- `HostWriteByte` inside a buffer: PASS ignores the write (10_state.md R50 to R53). -/
def State.writeBufByte (s : State) (b : Buf) (i : Nat) (v : Byte) : State :=
  match b with
  | .key => { s with key := s.key.write i v }
  | .msg => { s with msg := s.msg.write i v }
  | .digest => { s with digest := s.digest.write i v }
  | .pass => s

/-- `HostRead(reg)` for any number (10_state.md R22). -/
def State.hostRead (s : State) (reg : Nat) : Nat :=
  match Reg.ofNumber reg with
  | some r => s.readReg r
  | none => 0

/-- `HostReadByte(buf, i)` for any identifier and index: out of range reads 0 (10_state.md R54). -/
def State.hostReadByte (s : State) (buf i : Nat) : Nat :=
  match Buf.ofNumber buf with
  | some b => if i < bufSize s.config b then s.readBufByte b i else 0
  | none => 0

/-- `HostWriteByte(buf, i, b)` for any identifier and index: out of range is ignored (10_state.md R54). -/
def State.hostWriteByte (s : State) (buf i : Nat) (v : Byte) : State :=
  match Buf.ofNumber buf with
  | some b => if i < bufSize s.config b then s.writeBufByte b i v else s
  | none => s

end Sys2Proof.Machine
end

