-- ==== Sys2Proof/Machine/EncodeHmac.lean ====
section
/-! DEFINITION. ENCODE and HMAC, steps 3 and 4 (41_encode_hmac.md). -/

namespace Sys2Proof.Machine

/-- Step 3: the counter as 8 big-endian bytes of MSG (41_encode_hmac.md R111). It cannot fail. -/
def encodeStep (s : State) : Ended :=
  .done { s with msg := s.msg.memWrite 0 8 s.ctr.toNat }.succeed

/-- ENCODE (41_encode_hmac.md R111). -/
def execEncode (s : State) : Host.Outcome State Fault Refusal :=
  .next (encodeStep s).state

/-- Step 4: the keyed hash of the message under the secret; an absent core is reported before a KEYLEN above KEY_MAX
(41_encode_hmac.md R114, R115). -/
def hmacStep (s : State) : Ended :=
  if s.config.hashPresent s.ealg = false then .failed (s.fail .hash)
  else if s.config.keyMax < s.keylen.toNat then .failed (s.fail .keylen)
  else
    .done { s with
      digest := s.digest.writeBytes 0 (padTo 64 (hmac s.ealg s.secret s.message))
      dlen := BitVec.ofNat 7 (digestLen s.ealg) }.succeed

/-- HMAC (41_encode_hmac.md R114). -/
def execHmac (s : State) : Host.Outcome State Fault Refusal :=
  .next (hmacStep s).state

end Sys2Proof.Machine
end

