-- ==== Sys2Proof/Machine/Resolve.lean ====
section
/-! DEFINITION. RESOLVE, steps 1 and 2 (40_resolve.md R100). -/

namespace Sys2Proof.Machine

/-- Steps 1 and 2 on the two immediates (40_resolve.md R100). It cannot fail. -/
def resolveStep (alg dig : Nibble) (s : State) : Ended :=
  .done { s with edig := resolveDigits dig, ealg := resolveAlg alg }.succeed

/-- RESOLVE alg, dig (40_resolve.md R100). -/
def execResolve (alg : AlgSel) (dig : DigSel) (s : State) : Host.Outcome State Fault Refusal :=
  .next (resolveStep alg.bits dig.bits s).state

end Sys2Proof.Machine
end

