-- ==== Sys2Proof/Machine/TruncateReduceFormat.lean ====
section
/-! DEFINITION. TRUNC, REDUCE and FORMAT, steps 5, 6 and 7 (42_truncate_reduce_format.md). -/

namespace Sys2Proof.Machine

/-- The offset of step 5: the low nibble of the last byte of a digest of `n` bytes (42_truncate_reduce_format.md R120). -/
def digestOffset (digest : Memory) (n : Nat) : BitVec 4 := (digest.read (n - 1)).setWidth 4

/-- `Trunc(D, off)` as the masked big-endian window (42_truncate_reduce_format.md R120, R122). -/
def truncValue (digest : Memory) (off : Nat) : Nat := digest.memRead off 4 &&& 0x7FFFFFFF

/-- Step 5: the offset and the truncated value, where the window lies inside the digest (42_truncate_reduce_format.md R120). -/
def truncStep (s : State) : Ended :=
  let n := s.dlen.toNat
  if n = 0 ∨ 64 < n then .failed (s.fail .window)
  else
    let off := digestOffset s.digest n
    if windowOk n off.toNat = false then .failed (s.fail .window)
    else .done { s with offset := off, tval := BitVec.ofNat 31 (truncValue s.digest off.toNat) }.succeed

/-- TRUNC (42_truncate_reduce_format.md R120). -/
def execTrunc (s : State) : Host.Outcome State Fault Refusal :=
  .next (truncStep s).state

/-- `Reduce(t, d) = t mod 10^d`, in naturals (42_truncate_reduce_format.md R125, R126). -/
def reduceCode (t d : Nat) : Nat := t % 10 ^ d

/-- Step 6: the code (42_truncate_reduce_format.md R124). It cannot fail. -/
def reduceStep (s : State) : Ended :=
  .done { s with code := BitVec.ofNat 31 (reduceCode s.tval.toNat s.edig.toNat) }.succeed

/-- REDUCE (42_truncate_reduce_format.md R124). -/
def execReduce (s : State) : Host.Outcome State Fault Refusal :=
  .next (reduceStep s).state

/-- `Digit(c, d, i)`, the digit of weight `10^(d-1-i)` (42_truncate_reduce_format.md R128). -/
def digitOf (c d i : Nat) : Nat := c / 10 ^ (d - 1 - i) % 10

/-- The character of a decimal digit: `0x30 + digit` (42_truncate_reduce_format.md R128; the codes are "from general
knowledge, not in source": PRESUMED, log 9). -/
def asciiDigit (n : Nat) : Byte := BitVec.ofNat 8 (0x30 + n)

/-- `Ascii(c, d)`: the `d` characters, most significant digit first (42_truncate_reduce_format.md R128). -/
def asciiNumeral (c d : Nat) : List Byte := (List.range d).map fun i => asciiDigit (digitOf c d i)

/-- Step 7: the passcode, where the code has at most EDIG digits (42_truncate_reduce_format.md R127, R129). -/
def formatStep (s : State) : Ended :=
  let d := s.edig.toNat
  let c := s.code.toNat
  if 10 ^ d ≤ c then .failed (s.fail .range)
  else .done { s with pass := s.pass.writeBytes 0 (padTo 16 (asciiNumeral c d)), passlen := s.edig }.succeed

/-- FORMAT (42_truncate_reduce_format.md R127). -/
def execFormat (s : State) : Host.Outcome State Fault Refusal :=
  .next (formatStep s).state

end Sys2Proof.Machine
end

