-- ==== Sys2Proof/Machine/Generate.lean ====
section
/-! DEFINITION. GEN, the whole generation (43_generate_and_system.md R140). -/

namespace Sys2Proof.Machine

/-- The six steps in the source's order, each exactly as its own rule says, up to the first that fails
(43_generate_and_system.md R140). -/
def genSteps (alg dig : Nibble) (s : State) : Ended :=
  (((((resolveStep alg dig s).andThen encodeStep).andThen hmacStep).andThen truncStep).andThen reduceStep).andThen formatStep

/-- GEN alg, dig (43_generate_and_system.md R140). -/
def execGen (alg : AlgSel) (dig : DigSel) (s : State) : Host.Outcome State Fault Refusal :=
  .next (genSteps alg.bits dig.bits s).state

end Sys2Proof.Machine
end

