-- ==== Sys2Proof/Machine/System.lean ====
section
/-! DEFINITION. NOP and ZERO (43_generate_and_system.md R144, R145). -/

namespace Sys2Proof.Machine

/-- NOP: no register and no buffer changes, STATUS included (43_generate_and_system.md R144). -/
def execNop (s : State) : Host.Outcome State Fault Refusal := .next s

/-- ZERO: every register and buffer but CTRL takes its reset value, STATUS included (43_generate_and_system.md R145). -/
def execZero (s : State) : Host.Outcome State Fault Refusal := .next { s.afterReset with ctrl := s.ctrl }

end Sys2Proof.Machine
end

