-- ==== Sys2Proof/Machine/Dispatch.lean ====
section
/-! DEFINITION. The meaning of each command, one arm for each row of spec/opcode_table.json (30_encoding.md R87). -/

namespace Sys2Proof.Machine

def exec (i : Instr) (s : State) : Host.Outcome State Fault Refusal :=
  match i with
  | .nop => Sys2Proof.Machine.execNop s
  | .gen alg dig => Sys2Proof.Machine.execGen alg dig s
  | .resolve alg dig => Sys2Proof.Machine.execResolve alg dig s
  | .encode => Sys2Proof.Machine.execEncode s
  | .hmac => Sys2Proof.Machine.execHmac s
  | .trunc => Sys2Proof.Machine.execTrunc s
  | .reduce => Sys2Proof.Machine.execReduce s
  | .format => Sys2Proof.Machine.execFormat s
  | .zero => Sys2Proof.Machine.execZero s

end Sys2Proof.Machine
end

