-- ==== Sys2Proof/Machine/Events.lean ====
section
/-! DEFINITION. Serving one event of the host or Reset (10_state.md R21, R40, 70_reset_and_hazards.md R200). -/

namespace Sys2Proof.Machine

/-- The word a `HostWrite(CMD, v)` delivers: the low 32 bits of the value (10_state.md R33, R40; DEDUCED, log 4). -/
def commandWord (v : Nat) : CmdWord := BitVec.ofNat 32 v

/-- Decode and execute a command word; a word that spells no command raises ERR_ILLEGAL and does nothing else
(10_state.md R40, 60_exceptions.md R181). -/
def executeWord (w : CmdWord) (s : State) : Host.Outcome State Fault Refusal :=
  match decode w with
  | .command i => exec i s
  | .illegal _ => .next (s.fail .illegal)

/-- `HostWrite(reg, v)`: a write to CMD executes a command, any other stores its value (10_state.md R22, R33, R40). -/
def serveHostWrite (reg v : Nat) (s : State) : Host.Outcome State Fault Refusal :=
  match Reg.ofNumber reg with
  | some .cmd => executeWord (commandWord v) s
  | some r => .next (s.writeReg r v)
  | none => .next s

/-- One event, served completely (20_memory.md R65, R68). -/
def serve (e : Event) (s : State) : Host.Outcome State Fault Refusal :=
  match e with
  | .hostWrite reg v => serveHostWrite reg v s
  | .hostRead reg => .next (s.reply (s.hostRead reg))
  | .hostWriteByte buf i b => .next (s.hostWriteByte buf i b)
  | .hostReadByte buf i => .next (s.reply (s.hostReadByte buf i))
  | .reset => .next s.afterReset

/-- One step: the oldest pending event leaves the list and is served; with none pending the engine waits for the next one
and nothing changes (43_generate_and_system.md R146; DEDUCED, log 3). -/
def serveNext (s : State) : Host.Outcome State Fault Refusal :=
  match s.pending with
  | [] => .next s
  | e :: rest => serve e { s with pending := rest }

/-- The state with a further event in front of the pending ones. -/
def State.withNextEvent (s : State) (e : Event) : State := { s with pending := e :: s.pending }

/-- The number of register CMD (10_state.md R22). -/
def cmdNumber : Nat := 0

end Sys2Proof.Machine
end

