-- ==== Sys2Proof/Machine/Step.lean ====
section
/-! DEFINITION. One step of the machine (20_memory.md R68). -/

namespace Sys2Proof.Machine

/-- One step serves one event of the host's stream (10_state.md R30: there is no program counter, "the order in which commands
execute is the order of those host writes"). -/
def step (s : State) : Host.Outcome State Fault Refusal := serveNext s

/-- The state in which the very next step executes the command of spec/opcode_table.json whose bits are `w`: the host's next
event is the `HostWrite(CMD, ·)` that delivers it (10_state.md R40; log 2). -/
def State.withFetchWord (s : State) (nbits w : Nat) : State :=
  s.withNextEvent (.hostWrite cmdNumber (tableWord nbits w).toNat)

end Sys2Proof.Machine
end

