-- ==== Sys2Proof/Safety.lean ====
section
/-! DEFINITION. What holds in every state of a run, and what a passcode in hand is (10_state.md R58, 60_exceptions.md R184). -/

namespace Sys2Proof.Machine

/-- The character codes of the decimal digits, 0x30 to 0x39 (10_state.md R53). -/
abbrev IsAsciiDigit (b : Byte) : Prop := 0x30 ≤ b.toNat ∧ b.toNat ≤ 0x39

/-- PASS holds PASSLEN digits, then 0x00 (10_state.md R53, R58 (d)). -/
abbrev State.PassOk (s : State) : Prop :=
  ∀ i < 16, (i < s.passlen.toNat → IsAsciiDigit (s.pass.read i)) ∧ (s.passlen.toNat ≤ i → s.pass.read i = 0x00)

/-- The invariant of every run: 10_state.md R58 (b), (d), (e), (f) as far as types do not already say it; the reserved bits of
CTRL and a DIAG without a diagnostic path are 0 (R42, R43); every buffer is in canonical form within its size (R54); KEY_MAX
is legal (00_scope.md R8). R58 (a) and (c) hold by the types of EALG, TVAL and CODE. -/
structure State.Inv (s : State) : Prop where
  edigPos : 1 ≤ s.edig.toNat
  passOk : s.PassOk
  errLegal : s.err.toNat ≤ 5
  statusReserved : s.status.extractLsb' 4 28 = 0
  errorNoPasscode : s.err ≠ 0 → s.passlen = 0
  ctrlReserved : s.ctrl.extractLsb' 1 31 = 0
  diagPath : s.ctrl.getLsbD 0 = true → s.config.diagPresent = true
  keyWf : s.key.wf s.config.keyMax = true
  msgWf : s.msg.wf 8 = true
  digestWf : s.digest.wf 64 = true
  passWf : s.pass.wf 16 = true
  configLegal : s.config.Legal

/-- A passcode was generated: "`r[STATUS].ERR = 0` and `r[PASSLEN] != 0`" (60_exceptions.md R184). -/
abbrev State.HasPasscode (s : State) : Prop := s.err = 0 ∧ s.passlen ≠ 0

/-- The characters of the passcode, `PASS[0..PASSLEN-1]` (10_state.md R53). -/
def State.passcode (s : State) : List Byte := s.pass.readBytes 0 s.passlen.toNat

/-- The error effect as a relation between states: ERR holds the code, PASS[0..15] reads 0x00, PASSLEN is 0, "no other state
changes at the raise" (60_exceptions.md R183). -/
def State.ErrorEffect (s t : State) (code : BitVec 4) : Prop :=
  ∃ p : Memory, t = { s with status := withErr s.status code, pass := p, passlen := 0 } ∧
    (∀ i < 16, p.read i = 0x00) ∧ ∀ i, 16 ≤ i → p.read i = s.pass.read i

/-- Commands one after the other, "stopped after the first command that fails" (43_generate_and_system.md R141). -/
def execUntilError : List Instr → State → Host.Outcome State Fault Refusal
  | [], s => .next s
  | i :: rest, s =>
    match exec i s with
    | .next t => if t.err = 0 then execUntilError rest t else .next t
    | .fault r => .fault r
    | .refused r => .refused r

/-- The run from reset of an engine with parameters `c` whose host issues `events`: the state after `n` steps. -/
def runFromReset (c : Config) (events : List Event) (n : Nat) : Host.Outcome State Fault Refusal :=
  core.run n { State.reset with config := c, pending := events }

end Sys2Proof.Machine
end

