-- ==== Sys2Proof/Certificates/Slice0/Obligations.lean ====
section
/-! DEFINITION. The statements about the model, from the numbered rules of spec/. Each docstring names the rule. -/

open Sys2Proof Sys2Proof.Machine

/-! ## Encoding (30_encoding.md) -/

/-- "`Decode(Encode(t)) = t` for every term t" (30_encoding.md R90, which marks it as derived): every well-formed command, with
every operand value. -/
def Obligations.DecodeOfEncodeIsTheCommand : Prop :=
  ∀ i : Instr, WellFormed i → decode (encode i) = .command i

/-- "`Encode(Decode(w)) = w` for every w that does not decode to Illegal" (30_encoding.md R90, which marks it as derived); and
what is decoded is well formed. -/
def Obligations.EncodeOfDecodeIsTheWord : Prop :=
  ∀ (w : CmdWord) (i : Instr), decode w = .command i → encode i = w ∧ WellFormed i

/-- R87: a word spells a command if and only if `w & mask = match`, row by row; and the operands are its fields (R81, R86). -/
def Obligations.WordSpellsCommandIffItMatchesItsRow : Prop :=
  ∀ w : CmdWord,
    (decode w = .command .nop ↔ w &&& 0xFFFFFFFF = 0x00000000) ∧
    ((∃ a d, decode w = .command (.gen a d)) ↔ w &&& 0xFFFFFF00 = 0x01000000) ∧
    ((∃ a d, decode w = .command (.resolve a d)) ↔ w &&& 0xFFFFFF00 = 0x02000000) ∧
    (decode w = .command .encode ↔ w &&& 0xFFFFFFFF = 0x03000000) ∧
    (decode w = .command .hmac ↔ w &&& 0xFFFFFFFF = 0x04000000) ∧
    (decode w = .command .trunc ↔ w &&& 0xFFFFFFFF = 0x05000000) ∧
    (decode w = .command .reduce ↔ w &&& 0xFFFFFFFF = 0x06000000) ∧
    (decode w = .command .format ↔ w &&& 0xFFFFFFFF = 0x07000000) ∧
    (decode w = .command .zero ↔ w &&& 0xFFFFFFFF = 0x08000000) ∧
    ∀ a d, decode w = .command (.gen a d) ∨ decode w = .command (.resolve a d) →
      a.bits.toNat = w.toNat / 16 % 16 ∧ d.bits.toNat = w.toNat % 16

/-- R88: the illegal words are exactly those of its three clauses, and executing one raises `Fail(ERR_ILLEGAL)` "and does
nothing else". -/
def Obligations.IllegalWordsAreExactlyThese : Prop :=
  ∀ w : CmdWord,
    ((∃ why, decode w = .illegal why) ↔
      (0x09000000 ≤ w.toNat ∨
      ((w.toNat / 2 ^ 24 = 1 ∨ w.toNat / 2 ^ 24 = 2) ∧ w.toNat / 2 ^ 8 % 2 ^ 16 ≠ 0) ∨
      (w.toNat / 2 ^ 24 ≠ 1 ∧ w.toNat / 2 ^ 24 ≠ 2 ∧ w.toNat % 2 ^ 24 ≠ 0))) ∧
    ∀ s why, decode w = .illegal why → ∃ t, executeWord w s = .next t ∧ s.ErrorEffect t 1

/-- Words written out from the encodings decode to what they stand for (R91's examples, R87's table; a sanity statement). -/
def Obligations.WrittenWordsDecode : Prop :=
  decode 0x00000000 = .command .nop ∧
  decode 0x01000016 = .command (.gen .sha1 (.count 6)) ∧
  decode 0x0100009A = .command (.gen (.unknown 9) (.count 10)) ∧
  decode 0x02000040 = .command (.resolve .md5 .unset) ∧
  decode 0x03000000 = .command .encode ∧
  decode 0x04000000 = .command .hmac ∧
  decode 0x05000000 = .command .trunc ∧
  decode 0x06000000 = .command .reduce ∧
  decode 0x07000000 = .command .format ∧
  decode 0x08000000 = .command .zero

/-! ## A step -/

/-- R40: a `HostWrite(CMD, w)` makes the engine decode w and execute the command it spells; the event leaves the host's list,
and CMD stores nothing (the step is `exec` of the command on the rest of the state). -/
def Obligations.StepExecutesTheDecodedCommand : Prop :=
  ∀ (s : State) (w : CmdWord) (rest : List Event) (i : Instr), s.pending = .hostWrite 0 w.toNat :: rest →
    decode w = .command i → step s = exec i { s with pending := rest }

/-- R181 with R183, at a step: a word that spells no command has the error effect with code 1 and no other. -/
def Obligations.StepOnIllegalWordHasOnlyTheErrorEffect : Prop :=
  ∀ (s : State) (w : CmdWord) (rest : List Event) (why : IllegalReason), s.pending = .hostWrite 0 w.toNat :: rest →
    decode w = .illegal why → ∃ t, step s = .next t ∧ ({ s with pending := rest } : State).ErrorEffect t 1

/-- The model's own choice (log 4): a `HostWrite(CMD, v)` of a value wider than 32 bits executes its low 32 bits. -/
def Obligations.WideCommandValueExecutesItsLowWord : Prop :=
  ∀ (s : State) (v : Nat), step (s.withNextEvent (.hostWrite 0 v)) = step (s.withNextEvent (.hostWrite 0 (v % 2 ^ 32)))

/-- The model's own choice (log 3): with no event pending the engine waits and nothing changes. -/
def Obligations.StepWithoutEventChangesNothing : Prop :=
  ∀ s : State, s.pending = [] → step s = .next s

/-- No step stops: in every state a step answers a next state, from every word and every host event (60_exceptions.md section
2, 93_implementation_defined.md Part 2). -/
def Obligations.EveryStepAnswersANextState : Prop :=
  ∀ s : State, ∃ t, step s = .next t

/-- A step takes the oldest event off the host's list, never touches the parameters, and hands the host one value exactly where
the event is a read (20_memory.md sections 4 and 6). -/
def Obligations.StepServesExactlyOneEvent : Prop :=
  ∀ s : State, ∃ t, step s = .next t ∧ t.pending = s.pending.tail ∧ t.config = s.config ∧
    match s.pending with
    | .hostRead _ :: _ => ∃ v, t.replies = s.replies ++ [v]
    | .hostReadByte _ _ :: _ => ∃ v, t.replies = s.replies ++ [v]
    | _ => t.replies = s.replies

/-- R68: the events are served in their order, and no event is affected by one after it: the state after serving `first` is the
same whatever stands behind it. -/
def Obligations.LaterEventsDoNotAffectEarlierOnes : Prop :=
  ∀ (s : State) (first later : List Event), ∃ t,
    core.run first.length { s with pending := first } = .next t ∧ t.pending = [] ∧
    core.run first.length { s with pending := first ++ later } = .next { t with pending := later }

/-! ## Reset -/

/-- R57: every register and every byte of every buffer after reset. -/
def Obligations.ResetStateIsAsTheSpecSays : Prop :=
  State.reset.status = 0 ∧ State.reset.err = 0 ∧ State.reset.ctrl = 0 ∧ State.reset.diag = false ∧
  State.reset.keylen = 0 ∧ State.reset.ctr = 0 ∧ hashNumber State.reset.ealg = 1 ∧ State.reset.ealg = .sha1 ∧
  State.reset.edig = 6 ∧ State.reset.dlen = 0 ∧ State.reset.offset = 0 ∧ State.reset.tval = 0 ∧ State.reset.code = 0 ∧
  State.reset.passlen = 0 ∧
  ∀ i, State.reset.key.read i = 0x00 ∧ State.reset.msg.read i = 0x00 ∧ State.reset.digest.read i = 0x00 ∧
    State.reset.pass.read i = 0x00

/-- The event Reset (70_reset_and_hazards.md R200): it gives every register and buffer its reset value, CTRL included. -/
def Obligations.ResetEventRestoresTheResetState : Prop :=
  ∀ (s : State) (rest : List Event), s.pending = .reset :: rest → ∃ t, step s = .next t ∧
    t.status = 0 ∧ t.ctrl = 0 ∧ t.keylen = 0 ∧ t.ctr = 0 ∧ t.ealg = .sha1 ∧ t.edig = 6 ∧ t.dlen = 0 ∧ t.offset = 0 ∧
    t.tval = 0 ∧ t.code = 0 ∧ t.passlen = 0 ∧
    ∀ i, t.key.read i = 0x00 ∧ t.msg.read i = 0x00 ∧ t.digest.read i = 0x00 ∧ t.pass.read i = 0x00

/-- 70_reset_and_hazards.md R201 (marked there as derived): ZERO and Reset leave the same state but for CTRL, which ZERO keeps
and Reset clears. -/
def Obligations.ZeroAndResetDifferInCtrlOnly : Prop :=
  ∀ s : State, ∃ t u, exec .zero s = .next t ∧ step (s.withNextEvent .reset) = .next u ∧ t.ctrl = s.ctrl ∧
    u.ctrl = 0 ∧ t = { u with ctrl := s.ctrl }

/-! ## NOP and ZERO (43_generate_and_system.md) -/

/-- NOP (R144), the word 0x00000000: no register and no buffer changes, STATUS included. -/
def Obligations.NopChangesNothing : Prop :=
  decode 0x00000000 = .command .nop ∧ ∀ s : State, exec .nop s = .next s

/-- ZERO (R145), the word 0x08000000: every register and buffer but CTRL takes its reset value, STATUS 0; a second ZERO changes
nothing. -/
def Obligations.ZeroClearsEverythingButCtrl : Prop :=
  decode 0x08000000 = .command .zero ∧ ∀ s : State, ∃ t, exec .zero s = .next t ∧ exec .zero t = .next t ∧
    t.status = 0 ∧ t.keylen = 0 ∧ t.ctr = 0 ∧ t.dlen = 0 ∧ t.offset = 0 ∧ t.tval = 0 ∧ t.code = 0 ∧ t.passlen = 0 ∧
    t.ealg = .sha1 ∧ t.edig = 6 ∧ t.ctrl = s.ctrl ∧
    (∀ i, t.key.read i = 0x00 ∧ t.msg.read i = 0x00 ∧ t.digest.read i = 0x00 ∧ t.pass.read i = 0x00) ∧
    t.config = s.config ∧ t.pending = s.pending ∧ t.replies = s.replies

/-! ## RESOLVE (40_resolve.md) -/

/-- R101, R102: the two resolution functions, value by value. -/
def Obligations.ResolutionFunctionsAreTheSpecs : Prop :=
  (∀ d : Nibble, (d.toNat = 0 → (resolveDigits d).toNat = 6) ∧ (d.toNat ≠ 0 → resolveDigits d = d)) ∧
  ∀ a : Nibble, (hashNumber (resolveAlg a)).toNat = if a.toNat = 2 then 2 else if a.toNat = 3 then 3 else if a.toNat = 4 then 4 else 1

/-- RESOLVE (R100), match 0x02000000 under 0xFFFFFF00: EDIG, EALG and STATUS.ERR take their values and nothing else changes; it
cannot fail. -/
def Obligations.ResolveWritesTheSelectorsOnly : Prop :=
  ∀ (a : AlgSel) (d : DigSel) (s : State), encode (.resolve a d) &&& 0xFFFFFF00 = 0x02000000 ∧
    exec (.resolve a d) s = .next { s with
      edig := if d.bits = 0 then 6 else d.bits
      ealg := if a.bits = 2 then .sha256 else if a.bits = 3 then .sha512 else if a.bits = 4 then .md5 else .sha1
      status := withErr s.status 0 }

/-- R100: "resolving an already resolved pair changes nothing". -/
def Obligations.ResolvingAResolvedPairChangesNothing : Prop :=
  ∀ (a a' : AlgSel) (d d' : DigSel) (s : State), ∃ t, exec (.resolve a d) s = .next t ∧
    (a'.bits = hashNumber t.ealg → d'.bits = t.edig → exec (.resolve a' d') t = .next t)

/-- An unset or unrecognised algorithm selector and an explicit SHA-1 leave identical state: the sentence of 40_resolve.md R103
that the spec marks as derived from R102 and R140. -/
def Obligations.UnsetOrUnknownAlgorithmIsSha1 : Prop :=
  ∀ (a : AlgSel) (d : DigSel) (s : State), a.bits = 0 ∨ a.bits = 1 ∨ 5 ≤ a.bits.toNat →
    hashNumber (resolveAlg a.bits) = 1 ∧ exec (.gen a d) s = exec (.gen .sha1 d) s

/-- An unset digit count and an explicit 6 leave identical state: the sentence of 40_resolve.md R104 that the spec marks as
derived from R101 and R140. -/
def Obligations.UnsetDigitCountIsSix : Prop :=
  ∀ (a : AlgSel) (s : State), resolveDigits DigSel.unset.bits = 6 ∧ resolveDigits (DigSel.count 6).bits = 6 ∧
    exec (.gen a .unset) s = exec (.gen a (.count 6)) s

/-! ## ENCODE and the byte order (41_encode_hmac.md, 20_memory.md) -/

/-- ENCODE (R111), the word 0x03000000: MSG[0..7] holds the counter, most significant byte first, ERR is 0, nothing else
changes. -/
def Obligations.EncodeWritesTheCounterBigEndian : Prop :=
  decode 0x03000000 = .command .encode ∧ ∀ s : State, ∃ m : Memory,
    exec .encode s = .next { s with msg := m, status := withErr s.status 0 } ∧
    (∀ k < 8, m.read k = (s.ctr >>> (8 * (7 - k))).setWidth 8) ∧ ∀ k, 8 ≤ k → m.read k = s.msg.read k

/-- R110: `Be64` gives 8 bytes, byte k being `(c >> (8*(7-k))) & 0xFF`, and is a bijection between 64-bit values and 8-byte
sequences. -/
def Obligations.CounterEncodingIsABijection : Prop :=
  (∀ c : BitVec 64, (be64 c).length = 8 ∧ ∀ k < 8, ((be64 c).getD k 0).toNat = c.toNat / 2 ^ (8 * (7 - k)) % 256) ∧
  ∀ bs : List Byte, bs.length = 8 → ∃! c : BitVec 64, be64 c = bs

/-- R61: both accesses are big-endian: `MemRead` is the weighted sum, `MemWrite` stores byte k of the value and touches no
other byte, and `MemRead` gives back what `MemWrite` stored. -/
def Obligations.BufferAccessesAreBigEndian : Prop :=
  (∀ (m : Memory) (i n : Nat), m.memRead i n = ∑ k ∈ Finset.range n, (m.read (i + k)).toNat * 256 ^ (n - 1 - k)) ∧
  ∀ (m : Memory) (i n v : Nat), v < 256 ^ n →
    (∀ k < n, ((m.memWrite i n v).read (i + k)).toNat = v / 256 ^ (n - 1 - k) % 256) ∧
    (∀ a, a < i ∨ i + n ≤ a → (m.memWrite i n v).read a = m.read a) ∧ (m.memWrite i n v).memRead i n = v

/-- The canonical form of a buffer (log 5): every write inside the buffer keeps it, and canonical buffers that read alike are
equal data. -/
def Obligations.CanonicalBuffersAreDeterminedByTheirBytes : Prop :=
  (∀ (size : Nat) (m : Memory) (a : Nat) (b : Byte), m.wf size = true → a < size →
    (m.write a b).wf size = true ∧ ∀ x, (m.write a b).read x = if x = a then b else m.read x) ∧
  ∀ (size : Nat) (m m' : Memory), m.wf size = true → m'.wf size = true → (∀ a, m.read a = m'.read a) → m = m'

/-! ## HMAC (41_encode_hmac.md, 48_hash_functions.md) -/

/-- R112 and the length law of R113: the identifiers, digest lengths and block sizes of the four hash functions, and that each
digest has its length. (The block sizes and the functions are general knowledge: log 8.) -/
def Obligations.DigestsHaveTheirLengths : Prop :=
  (hashNumber .sha1 = 1 ∧ digestLen .sha1 = 20 ∧ blockLen .sha1 = 64) ∧
  (hashNumber .sha256 = 2 ∧ digestLen .sha256 = 32 ∧ blockLen .sha256 = 64) ∧
  (hashNumber .sha512 = 3 ∧ digestLen .sha512 = 64 ∧ blockLen .sha512 = 128) ∧
  (hashNumber .md5 = 4 ∧ digestLen .md5 = 16 ∧ blockLen .md5 = 64) ∧
  (∀ (h : HashAlg) (m : List Byte), (hashOf h m).length = digestLen h) ∧
  ∀ (h : HashAlg) (key msg : List Byte), (hmac h key msg).length = digestLen h

/-- 48_hash_functions.md R150 (general knowledge: log 8): the construction of `Hmac` from the hash function: a key longer than
the block is hashed first, the key is padded on the right with zeros to the block, and two nested hashes are taken under the
two pads. -/
def Obligations.HmacIsTheTwoNestedHashes : Prop :=
  ∀ (h : HashAlg) (key msg : List Byte), ∃ k0 : List Byte,
    k0.length = blockLen h ∧
    (blockLen h < key.length → ∀ i, k0.getD i 0 = (hashOf h key).getD i 0) ∧
    (key.length ≤ blockLen h → ∀ i, k0.getD i 0 = key.getD i 0) ∧
    hmac h key msg = hashOf h (k0.map (· ^^^ 0x5C) ++ hashOf h (k0.map (· ^^^ 0x36) ++ msg))

/-- HMAC (R114), the word 0x04000000: an absent core gives ERR_HASH, checked first, a KEYLEN above KEY_MAX gives ERR_KEYLEN,
each with the error effect only; otherwise all 64 bytes of DIGEST hold the keyed hash of MSG[0..7] under KEY[0..KEYLEN-1] and
then zeros, DLEN is its length, ERR is 0 and nothing else changes. -/
def Obligations.HmacWritesTheKeyedHash : Prop :=
  decode 0x04000000 = .command .hmac ∧ ∀ s : State,
    (s.config.hashPresent s.ealg = false → ∃ t, exec .hmac s = .next t ∧ s.ErrorEffect t 2) ∧
    (s.config.hashPresent s.ealg = true → s.config.keyMax < s.keylen.toNat →
      ∃ t, exec .hmac s = .next t ∧ s.ErrorEffect t 3) ∧
    (s.config.hashPresent s.ealg = true → s.keylen.toNat ≤ s.config.keyMax → ∃ dg : Memory,
      exec .hmac s = .next { s with
        digest := dg, dlen := BitVec.ofNat 7 (digestLen s.ealg), status := withErr s.status 0 } ∧
      (∀ i < digestLen s.ealg,
        dg.read i = (hmac s.ealg (s.key.readBytes 0 s.keylen.toNat) (s.msg.readBytes 0 8)).getD i 0) ∧
      (∀ i, digestLen s.ealg ≤ i → i < 64 → dg.read i = 0x00) ∧ ∀ i, 64 ≤ i → dg.read i = s.digest.read i)

/-- "Bytes at or above `r[KEYLEN]` are ignored by every command" (10_state.md section 5): KEY replaced by one that agrees below
KEYLEN changes no command's effect; a command leaves KEY as it is, or clears it where it is ZERO. -/
def Obligations.KeyBytesBeyondKeylenAreIgnored : Prop :=
  ∀ (i : Instr) (s : State) (k : Memory), (∀ j < s.keylen.toNat, k.read j = s.key.read j) →
    ∃ t, exec i s = .next t ∧ exec i { s with key := k } = .next { t with key := if i = .zero then [] else k }

/-! ## TRUNC (42_truncate_reduce_format.md) -/

/-- The truncated value is the masked first byte and the three bytes after it, combined by shifts (42_truncate_reduce_format.md
R122); it is also `MemRead(D, off, 4) & 0x7FFFFFFF`, which R122 marks as derived from 20_memory.md R61, and the same bytes
combined by addition; and it is below 2^31. -/
def Obligations.TruncationFormula : Prop :=
  ∀ (d : Memory) (off : Nat),
    truncValue d off = (((d.read off).toNat &&& 0x7F) <<< 24 ||| (d.read (off + 1)).toNat <<< 16 |||
      (d.read (off + 2)).toNat <<< 8 ||| (d.read (off + 3)).toNat) ∧
    truncValue d off = (d.read off).toNat % 128 * 2 ^ 24 + (d.read (off + 1)).toNat * 2 ^ 16 +
      (d.read (off + 2)).toNat * 2 ^ 8 + (d.read (off + 3)).toNat ∧
    truncValue d off = d.memRead off 4 &&& 0x7FFFFFFF ∧ truncValue d off ≤ 2147483647

/-- TRUNC (R120), the word 0x05000000: a DLEN of 0 or above 64, or a window that leaves the digest, gives ERR_WINDOW with the
error effect only; otherwise OFFSET is the low nibble of the last digest byte, TVAL the masked big-endian window there, ERR is
0 and nothing else changes. -/
def Obligations.TruncExtractsTheWindow : Prop :=
  decode 0x05000000 = .command .trunc ∧ ∀ s : State,
    (s.dlen.toNat = 0 ∨ 64 < s.dlen.toNat → ∃ t, exec .trunc s = .next t ∧ s.ErrorEffect t 4) ∧
    (1 ≤ s.dlen.toNat → s.dlen.toNat ≤ 64 →
      ((s.dlen.toNat < (s.digest.read (s.dlen.toNat - 1)).toNat % 16 + 4 →
        ∃ t, exec .trunc s = .next t ∧ s.ErrorEffect t 4) ∧
      ((s.digest.read (s.dlen.toNat - 1)).toNat % 16 + 4 ≤ s.dlen.toNat → ∃ (off : BitVec 4) (tv : BitVec 31),
        exec .trunc s = .next { s with offset := off, tval := tv, status := withErr s.status 0 } ∧
        off.toNat = (s.digest.read (s.dlen.toNat - 1)).toNat % 16 ∧
        tv.toNat = s.digest.memRead off.toNat 4 % 2 ^ 31)))

/-- Where DLEN is 16, ERR_WINDOW occurs exactly for the offsets 13, 14, 15; where it is 19 to 64, so for 20, 32 and 64, it
cannot occur: the inference that 42_truncate_reduce_format.md R121 and R123 mark as derived. (A host-written DLEN of 1 to 15,
17 or 18 can miss the window too: `TruncExtractsTheWindow` covers every length.) -/
def Obligations.WindowErrorAtLength16AndLengths19To64 : Prop :=
  ∀ s : State, ∃ t, exec .trunc s = .next t ∧
    (19 ≤ s.dlen.toNat → s.dlen.toNat ≤ 64 → t.err = 0) ∧
    (s.dlen.toNat = 16 → (t.err = 4 ↔ 13 ≤ (s.digest.read 15).toNat % 16) ∧ (t.err = 0 ↔ (s.digest.read 15).toNat % 16 ≤ 12))

/-! ## REDUCE and FORMAT (42_truncate_reduce_format.md) -/

/-- REDUCE, the word 0x06000000: CODE is TVAL mod 10^EDIG, at most TVAL, below 10^EDIG, and TVAL itself where EDIG is 10 or
more; ERR is 0 and nothing else changes. For EDIG 1 to 15 this is 42_truncate_reduce_format.md R124 and R125; for EDIG = 0,
which R125 leaves out and no run reaches, it is the model's choice (log 18). -/
def Obligations.ReduceIsTheDecimalRemainder : Prop :=
  decode 0x06000000 = .command .reduce ∧ ∀ s : State, ∃ c : BitVec 31,
    exec .reduce s = .next { s with code := c, status := withErr s.status 0 } ∧
    c.toNat = s.tval.toNat % 10 ^ s.edig.toNat ∧ c.toNat ≤ s.tval.toNat ∧ c.toNat < 10 ^ s.edig.toNat ∧
    (10 ≤ s.edig.toNat → c = s.tval)

/-- FORMAT, the word 0x07000000: a CODE of 10^EDIG or more gives ERR_RANGE with the error effect only; otherwise
PASS[0..EDIG-1] are the characters of the digits, most significant first, the rest of PASS is 0x00, PASSLEN is EDIG, ERR is 0
and nothing else changes. For EDIG 1 to 15 this is 42_truncate_reduce_format.md R127; for EDIG = 0, which R128 leaves out and
no run reaches, it is the model's choice (log 18). -/
def Obligations.FormatWritesThePaddedNumeral : Prop :=
  decode 0x07000000 = .command .format ∧ ∀ s : State,
    (10 ^ s.edig.toNat ≤ s.code.toNat → ∃ t, exec .format s = .next t ∧ s.ErrorEffect t 5) ∧
    (s.code.toNat < 10 ^ s.edig.toNat → ∃ p : Memory,
      exec .format s = .next { s with pass := p, passlen := s.edig, status := withErr s.status 0 } ∧
      (∀ i < s.edig.toNat, (p.read i).toNat = 0x30 + s.code.toNat / 10 ^ (s.edig.toNat - 1 - i) % 10) ∧
      (∀ i, s.edig.toNat ≤ i → i < 16 → p.read i = 0x00) ∧ ∀ i, 16 ≤ i → p.read i = s.pass.read i)

/-- 42_truncate_reduce_format.md R128 (its character codes are general knowledge: log 9): where c < 10^d the digits of c spell
it: `c = sum over i of Digit(c, d, i) * 10^(d-1-i)`; and `Ascii(c, d)` is d bytes, each 0x30 plus its digit. -/
def Obligations.DigitsSpellTheCode : Prop :=
  ∀ c d : Nat, (c < 10 ^ d → ∑ i ∈ Finset.range d, digitOf c d i * 10 ^ (d - 1 - i) = c) ∧
    (asciiNumeral c d).length = d ∧
    ∀ i < d, digitOf c d i = c / 10 ^ (d - 1 - i) % 10 ∧ ((asciiNumeral c d).getD i 0).toNat = 0x30 + digitOf c d i

/-- 42_truncate_reduce_format.md R130 (marked there as derived): after REDUCE and FORMAT the passcode has exactly EDIG
characters, all decimal digits, and the number they spell is CODE, is TVAL mod 10^EDIG and is below 10^EDIG. -/
def Obligations.ReduceThenFormatSpellsTheRemainder : Prop :=
  ∀ s : State, ∃ t u, exec .reduce s = .next t ∧ exec .format t = .next u ∧ u.err = 0 ∧ u.passlen = s.edig ∧
    (∀ i < u.passlen.toNat, IsAsciiDigit (u.pass.read i)) ∧
    ∑ i ∈ Finset.range u.passlen.toNat, ((u.pass.read i).toNat - 0x30) * 10 ^ (u.passlen.toNat - 1 - i) = u.code.toNat ∧
    u.code.toNat = s.tval.toNat % 10 ^ s.edig.toNat ∧ u.code.toNat < 10 ^ s.edig.toNat

/-! ## GEN (43_generate_and_system.md) -/

/-- 43_generate_and_system.md R141 (marked there as derived from R140): from any state GEN leaves the state that the six step
commands leave, stopped after the first that fails. -/
def Obligations.GenEqualsTheStepCommands : Prop :=
  ∀ (a : AlgSel) (d : DigSel) (s : State),
    exec (.gen a d) s = execUntilError [.resolve a d, .encode, .hmac, .trunc, .reduce, .format] s

/-- GEN (R140), whole, match 0x01000000 under 0xFFFFFF00: the new EDIG, EALG and MSG stay whatever happens; ERR_HASH, then
ERR_KEYLEN from step 4; the new DIGEST and DLEN stay where step 5 raises ERR_WINDOW; otherwise OFFSET, TVAL, CODE, PASS and
PASSLEN follow and ERR is 0. -/
def Obligations.GenRunsTheSevenSteps : Prop :=
  ∀ (a : AlgSel) (d : DigSel) (s : State), encode (.gen a d) &&& 0xFFFFFF00 = 0x01000000 ∧ ∃ m : Memory,
    (∀ k < 8, m.read k = (s.ctr >>> (8 * (7 - k))).setWidth 8) ∧ (∀ k, 8 ≤ k → m.read k = s.msg.read k) ∧
    let h := resolveAlg a.bits
    let s1 : State := { s with edig := resolveDigits d.bits, ealg := h, msg := m }
    let D := hmac h (s.key.readBytes 0 s.keylen.toNat) (be64 s.ctr)
    let off := (D.getD (digestLen h - 1) 0).toNat % 16
    (s.config.hashPresent h = false → ∃ t, exec (.gen a d) s = .next t ∧ s1.ErrorEffect t 2) ∧
    (s.config.hashPresent h = true → s.config.keyMax < s.keylen.toNat →
      ∃ t, exec (.gen a d) s = .next t ∧ s1.ErrorEffect t 3) ∧
    (s.config.hashPresent h = true → s.keylen.toNat ≤ s.config.keyMax → ∃ dg : Memory,
      (∀ i < digestLen h, dg.read i = D.getD i 0) ∧ (∀ i, digestLen h ≤ i → i < 64 → dg.read i = 0x00) ∧
      (∀ i, 64 ≤ i → dg.read i = s.digest.read i) ∧
      let s2 : State := { s1 with digest := dg, dlen := BitVec.ofNat 7 (digestLen h) }
      (digestLen h < off + 4 → ∃ t, exec (.gen a d) s = .next t ∧ s2.ErrorEffect t 4) ∧
      (off + 4 ≤ digestLen h → ∃ (o : BitVec 4) (tv c : BitVec 31) (p : Memory),
        exec (.gen a d) s = .next { s2 with
          offset := o, tval := tv, code := c, pass := p, passlen := s1.edig, status := withErr s.status 0 } ∧
        o.toNat = off ∧
        tv.toNat = (D.getD off 0).toNat % 128 * 2 ^ 24 + (D.getD (off + 1) 0).toNat * 2 ^ 16 +
          (D.getD (off + 2) 0).toNat * 2 ^ 8 + (D.getD (off + 3) 0).toNat ∧
        c.toNat = tv.toNat % 10 ^ s1.edig.toNat ∧
        (∀ i < s1.edig.toNat, (p.read i).toNat = 0x30 + c.toNat / 10 ^ (s1.edig.toNat - 1 - i) % 10) ∧
        (∀ i, s1.edig.toNat ≤ i → i < 16 → p.read i = 0x00) ∧ ∀ i, 16 ≤ i → p.read i = s.pass.read i))

/-- 43_generate_and_system.md R142 (marked there as derived from R140): GEN depends only on its immediates, the secret, the
counter and the parameters: two states that agree on these give the same PASS, PASSLEN and ERR, and on success the same EDIG,
EALG, MSG, DIGEST, DLEN, OFFSET, TVAL and CODE. -/
def Obligations.GenDependsOnItsOperandsOnly : Prop :=
  ∀ (a : AlgSel) (d : DigSel) (s s' : State), s.config = s'.config → s.keylen = s'.keylen → s.ctr = s'.ctr →
    (∀ i < s.keylen.toNat, s.key.read i = s'.key.read i) →
    ∃ t t', exec (.gen a d) s = .next t ∧ exec (.gen a d) s' = .next t' ∧
      t.err = t'.err ∧ t.passlen = t'.passlen ∧ (∀ i < 16, t.pass.read i = t'.pass.read i) ∧
      (t.err = 0 → t.edig = t'.edig ∧ t.ealg = t'.ealg ∧ (∀ i < 8, t.msg.read i = t'.msg.read i) ∧
        (∀ i < 64, t.digest.read i = t'.digest.read i) ∧ t.dlen = t'.dlen ∧ t.offset = t'.offset ∧ t.tval = t'.tval ∧
        t.code = t'.code)

/-- With every hash core present and a KEYLEN within KEY_MAX, GEN yields a passcode of the effective digit count, or fails with
ERR_WINDOW, and that only for MD5 (43_generate_and_system.md R140's exceptions, 42_truncate_reduce_format.md section 1). -/
def Obligations.GenFailsOnlyForMd5Windows : Prop :=
  ∀ (a : AlgSel) (d : DigSel) (s : State), (∀ h, s.config.hashPresent h = true) → s.keylen.toNat ≤ s.config.keyMax →
    ∃ t, exec (.gen a d) s = .next t ∧
      ((t.HasPasscode ∧ t.passlen = resolveDigits d.bits ∧ ∀ b ∈ t.passcode, IsAsciiDigit b) ∨
        (t.err = 4 ∧ t.passlen = 0 ∧ resolveAlg a.bits = .md5))

/-! ## Rules of the whole machine -/

/-- R56: no command except ZERO writes KEY, KEYLEN, CTR or CTRL (and ZERO keeps CTRL); every command completes. -/
def Obligations.NoCommandButZeroWritesOperands : Prop :=
  ∀ (i : Instr) (s : State), ∃ t, exec i s = .next t ∧ t.ctrl = s.ctrl ∧
    (i ≠ .zero → t.key = s.key ∧ t.keylen = s.keylen ∧ t.ctr = s.ctr)

/-- "DIAG has no effect on what any command computes or writes" and "no command reads or writes CTRL" (10_state.md section 4).
-/
def Obligations.CommandsDoNotDependOnCtrl : Prop :=
  ∀ (i : Instr) (s : State) (c : BitVec 32), ∃ t, exec i s = .next t ∧
    exec i { s with ctrl := c } = .next { t with ctrl := c }

/-- "No command's result depends on the outcome of an earlier command" (10_state.md section 4): with any other ERR before it a
command other than NOP leaves the same state, ERR included. -/
def Obligations.CommandsDoNotDependOnEarlierErrors : Prop :=
  ∀ (i : Instr) (s : State) (e : BitVec 4), i ≠ .nop → ∃ t, exec i s = .next t ∧
    exec i { s with status := withErr s.status e } = .next t

/-- 60_exceptions.md R180: the codes each command can raise, and success 0 where it raises none; NOP keeps ERR (10_state.md
R41). That no command but ZERO changes STATUS[31:4] is log 13 (DEDUCED from 10_state.md R41 and R43). -/
def Obligations.CommandsRaiseOnlyTheirErrors : Prop :=
  (∀ (i : Instr) (s : State), ∃ t, exec i s = .next t ∧
    (i ≠ .zero → t.status.extractLsb' 4 28 = s.status.extractLsb' 4 28) ∧
    match i with
    | .nop => t.err = s.err
    | .gen _ _ => t.err = 0 ∨ t.err = 2 ∨ t.err = 3 ∨ t.err = 4
    | .hmac => t.err = 0 ∨ t.err = 2 ∨ t.err = 3
    | .trunc => t.err = 0 ∨ t.err = 4
    | .format => t.err = 0 ∨ t.err = 5
    | .resolve _ _ => t.err = 0
    | .encode => t.err = 0
    | .reduce => t.err = 0
    | .zero => t.err = 0) ∧
  ErrCode.illegal.number = 1 ∧ ErrCode.hash.number = 2 ∧ ErrCode.keylen.number = 3 ∧ ErrCode.window.number = 4 ∧
    ErrCode.range.number = 5

/-- After an error there is no passcode: whatever command word raised it, PASSLEN is 0 and every byte of PASS is 0x00
(60_exceptions.md section 2). -/
def Obligations.AnErrorLeavesNoPasscode : Prop :=
  ∀ (w : CmdWord) (s : State), decode w ≠ .command .nop → ∃ t, executeWord w s = .next t ∧
    (t.err ≠ 0 → t.passlen = 0 ∧ ∀ i < 16, t.pass.read i = 0x00)

/-- The invariant `State.Inv` holds at reset. -/
def Obligations.ResetMeetsTheInvariant : Prop := State.reset.Inv

/-- Every step keeps the invariant `State.Inv`: 10_state.md R58 (b), (d), (e), (f), the reserved bits, the canonical buffers.
-/
def Obligations.EveryStepKeepsTheInvariant : Prop :=
  ∀ s : State, s.Inv → ∃ t, step s = .next t ∧ t.Inv

/-- 10_state.md R58 (marked there as derived): clauses (a) to (f) in every state a run can reach, for every engine (every legal
choice of the parameters) and every host (every list of events). -/
def Obligations.ReachableStatesObeyTheSpecsInvariants : Prop :=
  ∀ (c : Config) (events : List Event) (n : Nat), c.Legal → ∃ t, runFromReset c events n = .next t ∧
    (1 ≤ (hashNumber t.ealg).toNat ∧ (hashNumber t.ealg).toNat ≤ 4) ∧
    (1 ≤ t.edig.toNat ∧ t.edig.toNat ≤ 15) ∧
    (t.tval.toNat < 2 ^ 31 ∧ t.code.toNat < 2 ^ 31) ∧
    (t.passlen.toNat ≤ 15 ∧ (∀ i < t.passlen.toNat, 0x30 ≤ (t.pass.read i).toNat ∧ (t.pass.read i).toNat ≤ 0x39) ∧
      ∀ i, t.passlen.toNat ≤ i → i < 16 → t.pass.read i = 0x00) ∧
    (t.err.toNat ≤ 5 ∧ t.status.toNat / 16 = 0) ∧
    (t.err ≠ 0 → t.passlen = 0)

/-! ## Host events (10_state.md, 20_memory.md) -/

/-- What a `HostWrite` of any value to any number but 0 (CMD, which executes a command) stores: the low bits that fit, nothing
in a read-only register (10_state.md R33), nothing at 12 and above (R22). To CTRL it stores bit 0 where the diagnostic path is
present and 0 in every other bit: log 14 (DEDUCED from R42 and R43). Nothing else changes. -/
def Obligations.HostWriteStoresTheLowBits : Prop :=
  ∀ (s : State) (n v : Nat) (rest : List Event), s.pending = .hostWrite n v :: rest →
    (n = 2 → step s = .next { s with
      pending := rest, ctrl := if s.config.diagPresent = true ∧ v % 2 = 1 then 1 else 0 }) ∧
    (n = 3 → step s = .next { s with pending := rest, keylen := BitVec.ofNat 16 (v % 2 ^ 16) }) ∧
    (n = 4 → step s = .next { s with pending := rest, ctr := BitVec.ofNat 64 (v % 2 ^ 64) }) ∧
    (n = 7 → step s = .next { s with pending := rest, dlen := BitVec.ofNat 7 (v % 2 ^ 7) }) ∧
    (n = 9 → step s = .next { s with pending := rest, tval := BitVec.ofNat 31 (v % 2 ^ 31) }) ∧
    (n = 1 ∨ n = 5 ∨ n = 6 ∨ n = 8 ∨ n = 10 ∨ 11 ≤ n → step s = .next { s with pending := rest })

/-- R22 with R44: the value a `HostRead` of any number returns; the engine's state is unchanged. -/
def Obligations.HostReadReturnsTheRegister : Prop :=
  ∀ (s : State) (n : Nat) (rest : List Event), s.pending = .hostRead n :: rest → ∃ v,
    step s = .next { s with pending := rest, replies := s.replies ++ [v] } ∧
    (n = 0 → v = 0) ∧ (n = 1 → v = s.status.toNat % 16) ∧ (n = 2 → v = if s.diag then 1 else 0) ∧
    (n = 3 → v = s.keylen.toNat) ∧ (n = 4 → v = s.ctr.toNat) ∧ (n = 5 → v = (hashNumber s.ealg).toNat) ∧
    (n = 6 → v = s.edig.toNat) ∧ (n = 7 → v = s.dlen.toNat) ∧ (n = 8 → v = if s.diag then s.offset.toNat else 0) ∧
    (n = 9 → v = if s.diag then s.tval.toNat else 0) ∧ (n = 10 → v = s.code.toNat) ∧ (n = 11 → v = s.passlen.toNat) ∧
    (12 ≤ n → v = 0)

/-- R54 with R50 to R53: a `HostWriteByte` inside KEY, MSG or DIGEST stores its byte and no other; into PASS, past the end of a
buffer or to no buffer it is ignored. -/
def Obligations.HostWriteByteStoresOneByte : Prop :=
  ∀ (s : State) (b i : Nat) (x : Byte) (rest : List Event), s.pending = .hostWriteByte b i x :: rest →
    (b = 0 → i < s.config.keyMax → ∃ m : Memory, step s = .next { s with pending := rest, key := m } ∧
      ∀ j, m.read j = if j = i then x else s.key.read j) ∧
    (b = 1 → i < 8 → ∃ m : Memory, step s = .next { s with pending := rest, msg := m } ∧
      ∀ j, m.read j = if j = i then x else s.msg.read j) ∧
    (b = 2 → i < 64 → ∃ m : Memory, step s = .next { s with pending := rest, digest := m } ∧
      ∀ j, m.read j = if j = i then x else s.digest.read j) ∧
    ((b = 0 ∧ s.config.keyMax ≤ i) ∨ (b = 1 ∧ 8 ≤ i) ∨ (b = 2 ∧ 64 ≤ i) ∨ 3 ≤ b →
      step s = .next { s with pending := rest })

/-- R54 with R44 and R50 to R53: the byte a `HostReadByte` returns: KEY 0 always, MSG and DIGEST gated, PASS open, out of range
0; the engine's state is unchanged. -/
def Obligations.HostReadByteReturnsTheByte : Prop :=
  ∀ (s : State) (b i : Nat) (rest : List Event), s.pending = .hostReadByte b i :: rest → ∃ v,
    step s = .next { s with pending := rest, replies := s.replies ++ [v] } ∧
    (b = 0 → v = 0) ∧
    (b = 1 → v = if i < 8 ∧ s.diag = true then (s.msg.read i).toNat else 0) ∧
    (b = 2 → v = if i < 64 ∧ s.diag = true then (s.digest.read i).toNat else 0) ∧
    (b = 3 → v = if i < 16 then (s.pass.read i).toNat else 0) ∧ (4 ≤ b → v = 0)

/-- R42: after `HostWrite(CTRL, v)` a `HostRead(CTRL)` returns bit 0 of v, or 0 where the diagnostic path is absent. -/
def Obligations.CtrlReadsBackItsDiagBit : Prop :=
  ∀ (s : State) (v : Nat), s.pending = [.hostWrite 2 v, .hostRead 2] → ∃ t, core.run 2 s = .next t ∧
    t.replies = s.replies ++ [if s.config.diagPresent then v % 2 else 0]

/-- The secret is never readable, for either value of DIAG (10_state.md sections 4 and 5): two states that differ in KEY only
answer every list of read events alike. -/
def Obligations.ReadsNeverRevealTheKey : Prop :=
  ∀ (s : State) (k : Memory), (∀ e ∈ s.pending, (∃ n, e = .hostRead n) ∨ ∃ b i, e = .hostReadByte b i) →
    ∃ t, core.run s.pending.length s = .next t ∧
      core.run s.pending.length { s with key := k } = .next { t with key := k }

/-- R44: while DIAG = 0 the host's reads depend on none of MSG, DIGEST, OFFSET, TVAL: two states that differ in these only
answer every list of read events alike. -/
def Obligations.GatedStateIsHiddenWhileDiagIsOff : Prop :=
  ∀ (s : State) (m dg : Memory) (o : BitVec 4) (tv : BitVec 31), s.diag = false →
    (∀ e ∈ s.pending, (∃ n, e = .hostRead n) ∨ ∃ b i, e = .hostReadByte b i) →
    ∃ t, core.run s.pending.length s = .next t ∧
      core.run s.pending.length { s with msg := m, digest := dg, offset := o, tval := tv } =
        .next { t with msg := m, digest := dg, offset := o, tval := tv }

/-- "No host write raises an error and none changes STATUS" (10_state.md R33, HostWrite to CMD apart, which executes a
command); a read changes no engine state and neither does any of them touch PASS, PASSLEN, CODE, EALG, EDIG or OFFSET. -/
def Obligations.HostAccessesTouchNoResult : Prop :=
  ∀ (s : State) (e : Event) (rest : List Event), s.pending = e :: rest → e ≠ .reset → (∀ v, e ≠ .hostWrite 0 v) →
    ∃ t, step s = .next t ∧ t.status = s.status ∧ t.pass = s.pass ∧ t.passlen = s.passlen ∧ t.code = s.code ∧
      t.ealg = s.ealg ∧ t.edig = s.edig ∧ t.offset = s.offset
end

