-- ==== Sys2Proof/Laws/Decode.lean ====
section
/-! SUPPORT. The fields of a word and the word of four fields; selectors and their numbers; the decoder on a word laid out by
its fields. -/

namespace Sys2Proof

theorem opField_wordOfFields (op : BitVec 8) (rsv : BitVec 16) (a d : Nibble) : opField (wordOfFields op rsv a d) = op := by
  ext i hi
  simp only [opField, wordOfFields, BitVec.getElem_extractLsb', BitVec.getLsbD_append]
  have h1 : ¬ 24 + i < 4 := by omega
  have h2 : ¬ 24 + i - 4 < 4 := by omega
  have h3 : ¬ 24 + i - 4 - 4 < 16 := by omega
  have h4 : 24 + i - 4 - 4 - 16 = i := by omega
  simp [h1, h2, h3, h4, hi]

theorem rsvField_wordOfFields (op : BitVec 8) (rsv : BitVec 16) (a d : Nibble) :
    rsvField (wordOfFields op rsv a d) = rsv := by
  ext i hi
  simp only [rsvField, wordOfFields, BitVec.getElem_extractLsb', BitVec.getLsbD_append]
  have h1 : ¬ 8 + i < 4 := by omega
  have h2 : ¬ 8 + i - 4 < 4 := by omega
  have h3 : 8 + i - 4 - 4 < 16 := by omega
  have h4 : 8 + i - 4 - 4 = i := by omega
  simp [h1, h2, h4, hi]

theorem algField_wordOfFields (op : BitVec 8) (rsv : BitVec 16) (a d : Nibble) : algField (wordOfFields op rsv a d) = a := by
  ext i hi
  simp only [algField, wordOfFields, BitVec.getElem_extractLsb', BitVec.getLsbD_append]
  have h1 : ¬ 4 + i < 4 := by omega
  have h2 : 4 + i - 4 = i := by omega
  simp [h1, h2, hi]

theorem digField_wordOfFields (op : BitVec 8) (rsv : BitVec 16) (a d : Nibble) : digField (wordOfFields op rsv a d) = d := by
  ext i hi
  simp only [digField, wordOfFields, BitVec.getElem_extractLsb', BitVec.getLsbD_append]
  simp [hi]

/-- Every word is laid out by its four fields. -/
theorem wordOfFields_fields (w : CmdWord) : wordOfFields (opField w) (rsvField w) (algField w) (digField w) = w := by
  ext i hi
  simp only [wordOfFields, opField, rsvField, algField, digField]
  simp only [← BitVec.getLsbD_eq_getElem, BitVec.getLsbD_append, BitVec.getLsbD_extractLsb']
  split
  · simp [*]
  split
  · next h2 => simp [h2, show 4 + (i - 4) = i by omega]
  split
  · next h3 => simp [h3, show 8 + (i - 4 - 4) = i by omega]
  · simp [show i - 4 - 4 - 16 < 8 by omega, show 24 + (i - 4 - 4 - 16) = i by omega]

/-- The value of a word from its fields. -/
theorem toNat_wordOfFields (op : BitVec 8) (rsv : BitVec 16) (a d : Nibble) :
    (wordOfFields op rsv a d).toNat = op.toNat * 2 ^ 24 + rsv.toNat * 2 ^ 8 + a.toNat * 16 + d.toNat := by
  have := op.isLt
  have := rsv.isLt
  have := a.isLt
  have := d.isLt
  simp only [wordOfFields, BitVec.toNat_append]
  rw [← Nat.shiftLeft_add_eq_or_of_lt (by omega), ← Nat.shiftLeft_add_eq_or_of_lt (by omega),
    ← Nat.shiftLeft_add_eq_or_of_lt (by omega)]
  simp only [Nat.shiftLeft_eq]
  omega

@[simp] theorem AlgSel.bits_ofBits (a : Nibble) : (AlgSel.ofBits a).bits = a := by
  revert a; decide

theorem AlgSel.wellFormed_ofBits (a : Nibble) : (AlgSel.ofBits a).wellFormed = true := by
  revert a; decide

theorem AlgSel.ofBits_bits (a : AlgSel) (h : a.wellFormed = true) : AlgSel.ofBits a.bits = a := by
  cases a with
  | unknown n => revert n; decide
  | unset | sha1 | sha256 | sha512 | md5 => rfl

@[simp] theorem DigSel.bits_ofBits (d : Nibble) : (DigSel.ofBits d).bits = d := by
  revert d; decide

theorem DigSel.wellFormed_ofBits (d : Nibble) : (DigSel.ofBits d).wellFormed = true := by
  revert d; decide

theorem DigSel.ofBits_bits (d : DigSel) (h : d.wellFormed = true) : DigSel.ofBits d.bits = d := by
  cases d with
  | count n => revert n; decide
  | unset => rfl

/-- The decoder on a word laid out by its fields, its reserved field 0. -/
theorem decode_wordOfFields (op : BitVec 8) (a d : Nibble) :
    decode (wordOfFields op 0 a d) =
      if op = 0x01 then .command (.gen (AlgSel.ofBits a) (DigSel.ofBits d))
      else if op = 0x02 then .command (.resolve (AlgSel.ofBits a) (DigSel.ofBits d))
      else if a ≠ 0 ∨ d ≠ 0 then .illegal (.operandBits a d)
      else if op = 0x00 then .command .nop
      else if op = 0x03 then .command .encode
      else if op = 0x04 then .command .hmac
      else if op = 0x05 then .command .trunc
      else if op = 0x06 then .command .reduce
      else if op = 0x07 then .command .format
      else if op = 0x08 then .command .zero
      else .illegal (.noSuchOpcode op) := by
  unfold decode
  rw [opField_wordOfFields, rsvField_wordOfFields, algField_wordOfFields, digField_wordOfFields]
  simp

/-- A reserved field that is not 0 makes a word illegal. -/
theorem decode_of_rsvField_ne (w : CmdWord) (h : rsvField w ≠ 0) : decode w = .illegal (.reservedBits (rsvField w)) :=
  if_pos h

end Sys2Proof
end

