-- ==== Sys2Proof/Laws/Memory.lean ====
section
/-! SUPPORT. The laws of a byte buffer and of big-endian numbers: read after write, the canonical form, equal buffers are
equal data. -/

namespace Sys2Proof.Machine
namespace Memory

@[simp] theorem read_nil (a : Nat) : read [] a = 0 := rfl

theorem read_cons (c : Host.Cell) (m : Memory) (a : Nat) : read (c :: m) a = if a = c.1 then c.2 else read m a := by
  cases c; rfl

theorem read_eraseCell (m : Memory) (a x : Nat) : (m.eraseCell a).read x = if x = a then 0 else m.read x := by
  induction m with
  | nil => simp [eraseCell]
  | cons c m ih =>
    unfold eraseCell at ih ⊢
    by_cases h : c.1 = a
    · rw [List.filter_cons_of_neg (by simpa using h), ih, read_cons]
      grind
    · rw [List.filter_cons_of_pos (by simpa using h), read_cons, ih, read_cons]
      grind

theorem read_insertCell (m : Memory) (a : Nat) (b : Byte) (h : ∀ c ∈ m, c.1 ≠ a) (x : Nat) :
    (m.insertCell a b).read x = if x = a then b else m.read x := by
  induction m with
  | nil => simp [insertCell, read_cons]
  | cons c m ih =>
    obtain ⟨k, v⟩ := c
    have hk : k ≠ a := h (k, v) (by simp)
    have ih := ih fun c hc => h c (by simp [hc])
    unfold insertCell
    split
    · simp [read_cons]
    · rw [read_cons, ih, read_cons]
      grind

theorem eraseCell_ne (m : Memory) (a : Nat) : ∀ c ∈ m.eraseCell a, c.1 ≠ a := by
  intro c hc
  simpa using (List.mem_filter.mp hc).2

/-- Read after write, for every buffer, canonical or not. -/
@[simp] theorem read_write (m : Memory) (a : Nat) (b : Byte) (x : Nat) :
    (m.write a b).read x = if x = a then b else m.read x := by
  unfold write
  split
  · next h => rw [read_eraseCell, h]; rfl
  · rw [read_insertCell _ _ _ (eraseCell_ne m a), read_eraseCell]
    split <;> simp_all

/-- Read after writing a byte sequence. -/
theorem read_writeBytes (bs : List Byte) (m : Memory) (i x : Nat) :
    (m.writeBytes i bs).read x = if i ≤ x ∧ x < i + bs.length then bs.getD (x - i) 0 else m.read x := by
  induction bs generalizing m i with
  | nil => simp [writeBytes]
  | cons b bs ih =>
    rw [writeBytes, ih]
    rcases Nat.lt_trichotomy x i with h | h | h
    · simp [read_write]; grind
    · subst h; simp
    · obtain ⟨k, rfl⟩ : ∃ k, x = i + 1 + k := ⟨x - (i + 1), by omega⟩
      have e1 : i + 1 + k - i = k + 1 := by omega
      have e2 : i + 1 + k - (i + 1) = k := by omega
      simp only [e1, e2, List.getD_cons_succ, List.length_cons, read_write]
      grind

theorem pairwise_insertCell (m : Memory) (a : Nat) (b : Byte) (hm : m.Pairwise fun c c' => c.1 < c'.1)
    (h : ∀ c ∈ m, c.1 ≠ a) : (m.insertCell a b).Pairwise fun c c' => c.1 < c'.1 := by
  have mem : ∀ (m : Memory) (c : Host.Cell), c ∈ m.insertCell a b → c = (a, b) ∨ c ∈ m := by
    intro m
    induction m with
    | nil => intro c hc; simpa [insertCell] using hc
    | cons d m ih =>
      intro c hc
      unfold insertCell at hc
      split at hc <;> grind
  induction m with
  | nil => simp [insertCell]
  | cons d m ih =>
    obtain ⟨k, v⟩ := d
    rw [List.pairwise_cons] at hm
    unfold insertCell
    split
    · next hlt =>
      rw [List.pairwise_cons, List.pairwise_cons]
      refine ⟨?_, hm⟩
      intro c hc
      rcases List.mem_cons.mp hc with rfl | hc
      · exact hlt
      · exact Nat.lt_trans hlt (hm.1 c hc)
    · next hlt =>
      rw [List.pairwise_cons]
      refine ⟨?_, ih hm.2 fun c hc => h c (by simp [hc])⟩
      intro c hc
      rcases mem m c hc with rfl | hc
      · have := h (k, v) (by simp)
        simp only at this ⊢
        omega
      · exact hm.1 c hc

theorem mem_insertCell (m : Memory) (a : Nat) (b : Byte) (c : Host.Cell) (hc : c ∈ m.insertCell a b) :
    c = (a, b) ∨ c ∈ m := by
  induction m with
  | nil => simpa [insertCell] using hc
  | cons d m ih =>
    unfold insertCell at hc
    split at hc <;> grind

theorem wf_iff (size : Nat) (m : Memory) :
    m.wf size = true ↔ m.Pairwise (fun c c' => c.1 < c'.1) ∧ ∀ c ∈ m, c.1 < size ∧ c.2 ≠ 0 := by
  simp only [wf, Bool.and_eq_true, decide_eq_true_eq, List.all_eq_true]
  exact and_congr_right fun _ => forall₂_congr fun c _ => and_congr_right fun _ => Iff.rfl

@[simp] theorem wf_nil (size : Nat) : wf size [] = true := rfl

/-- A write inside the buffer keeps the canonical form. -/
theorem wf_write {size : Nat} {m : Memory} (hm : m.wf size = true) {a : Nat} (ha : a < size) (b : Byte) :
    (m.write a b).wf size = true := by
  rw [wf_iff] at hm ⊢
  have he : (m.eraseCell a).Pairwise fun c c' => c.1 < c'.1 := hm.1.sublist List.filter_sublist
  have hmem : ∀ c ∈ m.eraseCell a, c ∈ m := fun c hc => (List.mem_filter.mp hc).1
  unfold write
  split
  · exact ⟨he, fun c hc => hm.2 c (hmem c hc)⟩
  · next hb =>
    refine ⟨pairwise_insertCell _ _ _ he (eraseCell_ne m a), fun c hc => ?_⟩
    rcases mem_insertCell _ _ _ _ hc with rfl | hc
    · exact ⟨ha, hb⟩
    · exact hm.2 c (hmem c hc)

/-- A byte sequence written inside the buffer keeps the canonical form. -/
theorem wf_writeBytes {size : Nat} (bs : List Byte) {m : Memory} (hm : m.wf size = true) {i : Nat}
    (hi : i + bs.length ≤ size) : (m.writeBytes i bs).wf size = true := by
  induction bs generalizing m i with
  | nil => exact hm
  | cons b bs ih =>
    simp only [List.length_cons] at hi
    exact ih (wf_write hm (by omega) b) (by omega)

theorem wf_memWrite {size : Nat} {m : Memory} (hm : m.wf size = true) {i n : Nat} (hi : i + n ≤ size) (v : Nat) :
    (m.memWrite i n v).wf size = true :=
  wf_writeBytes _ hm (by simpa [beBytes] using hi)

theorem read_eq_zero_of_lt {size : Nat} {m : Memory} (hm : m.wf size = true) {a : Nat} (ha : ∀ c ∈ m, a < c.1) :
    m.read a = 0 := by
  induction m with
  | nil => rfl
  | cons c m ih =>
    have h := ha c (by simp)
    rw [read_cons, if_neg (by omega)]
    rw [wf_iff, List.pairwise_cons] at hm
    exact ih ((wf_iff _ _).mpr ⟨hm.1.2, fun c hc => hm.2 c (by simp [hc])⟩) fun c hc => ha c (by simp [hc])

/-- Canonical buffers that read alike are equal data. -/
theorem ext_of_wf {size : Nat} {m m' : Memory} (hm : m.wf size = true) (hm' : m'.wf size = true)
    (h : ∀ a, m.read a = m'.read a) : m = m' := by
  induction m generalizing m' with
  | nil =>
    cases m' with
    | nil => rfl
    | cons c m' =>
      have h1 := h c.1
      rw [read_cons, if_pos rfl] at h1
      exact absurd h1.symm ((wf_iff _ _).mp hm' |>.2 c (by simp)).2
  | cons c m ih =>
    cases m' with
    | nil =>
      have h1 := h c.1
      rw [read_cons, if_pos rfl] at h1
      exact absurd h1 ((wf_iff _ _).mp hm |>.2 c (by simp)).2
    | cons c' m' =>
      have w := (wf_iff _ _).mp hm
      have w' := (wf_iff _ _).mp hm'
      rw [List.pairwise_cons] at w w'
      have hmt : Memory.wf size m = true := (wf_iff _ _).mpr ⟨w.1.2, fun x hx => w.2 x (by simp [hx])⟩
      have hmt' : Memory.wf size m' = true := (wf_iff _ _).mpr ⟨w'.1.2, fun x hx => w'.2 x (by simp [hx])⟩
      have key : c.1 = c'.1 := by
        rcases Nat.lt_trichotomy c.1 c'.1 with hlt | heq | hlt
        · have h1 := h c.1
          rw [read_cons, if_pos rfl, read_cons, if_neg (by omega),
            read_eq_zero_of_lt hmt' fun x hx => Nat.lt_trans hlt (w'.1.1 x hx)] at h1
          exact absurd h1 (w.2 c (by simp)).2
        · exact heq
        · have h1 := h c'.1
          rw [read_cons, if_neg (by omega), read_cons, if_pos rfl,
            read_eq_zero_of_lt hmt fun x hx => Nat.lt_trans hlt (w.1.1 x hx)] at h1
          exact absurd h1.symm (w'.2 c' (by simp)).2
      have val : c.2 = c'.2 := by
        have h1 := h c.1
        rwa [read_cons, if_pos rfl, read_cons, if_pos key] at h1
      have tail : m = m' := by
        refine ih hmt hmt' fun a => ?_
        have h1 := h a
        rw [read_cons, read_cons, ← key, ← val] at h1
        by_cases ha : a = c.1
        · rw [ha, read_eq_zero_of_lt hmt w.1.1, read_eq_zero_of_lt hmt' (key ▸ w'.1.1)]
        · rwa [if_neg ha, if_neg ha] at h1
      rw [tail, Prod.ext key val]

@[simp] theorem length_readBytes (m : Memory) (i n : Nat) : (m.readBytes i n).length = n := by simp [readBytes]

theorem getD_readBytes (m : Memory) (i n k : Nat) (hk : k < n) (d : Byte) : (m.readBytes i n).getD k d = m.read (i + k) := by
  simp [readBytes, List.getD, hk]

/-- Buffers that agree on a range read alike over it. -/
theorem readBytes_congr {m m' : Memory} {i n : Nat} (h : ∀ k < n, m.read (i + k) = m'.read (i + k)) :
    m.readBytes i n = m'.readBytes i n :=
  List.map_congr_left fun k hk => h k (List.mem_range.mp hk)

end Memory

@[simp] theorem length_beBytes (n v : Nat) : (beBytes n v).length = n := by simp [beBytes]

theorem getD_beBytes (n v k : Nat) (hk : k < n) (d : Byte) :
    (beBytes n v).getD k d = BitVec.ofNat 8 (v >>> (8 * (n - 1 - k))) := by
  simp [beBytes, List.getD, hk]

theorem length_padTo (n : Nat) (bs : List Byte) (h : bs.length ≤ n) : (padTo n bs).length = n := by
  simp [padTo]; omega

theorem getD_padTo (n : Nat) (bs : List Byte) (k : Nat) : (padTo n bs).getD k 0 = bs.getD k 0 := by
  unfold padTo
  by_cases h : k < bs.length
  · simp only [List.getD, List.getElem?_append_left h]
  · simp only [List.getD, List.getElem?_append_right (Nat.not_lt.mp h), List.getElem?_replicate,
      List.getElem?_eq_none (Nat.not_lt.mp h)]
    split <;> rfl

/-- Every one of the 16 bytes of a cleared PASS reads 0x00, and nothing else of it moves. -/
theorem read_clearedPass_aux (p : Memory) (x : Nat) :
    (p.writeBytes 0 (padTo 16 [])).read x = if x < 16 then 0 else p.read x := by
  rw [Memory.read_writeBytes, length_padTo 16 [] (by simp)]
  simp only [getD_padTo]
  simp

theorem beNat_foldl (bs : List Byte) (acc : Nat) :
    bs.foldl (fun acc b => acc * 256 + b.toNat) acc = acc * 256 ^ bs.length + beNat bs := by
  unfold beNat
  induction bs generalizing acc with
  | nil => simp
  | cons b bs ih =>
    simp only [List.foldl_cons, List.length_cons]
    rw [ih, ih (0 * 256 + b.toNat)]
    ring

theorem beNat_cons (b : Byte) (bs : List Byte) : beNat (b :: bs) = b.toNat * 256 ^ bs.length + beNat bs := by
  have h := beNat_foldl bs b.toNat
  simpa [beNat] using h

@[simp] theorem beNat_nil : beNat [] = 0 := rfl

theorem beNat_lt (bs : List Byte) : beNat bs < 256 ^ bs.length := by
  induction bs with
  | nil => simp
  | cons b bs ih =>
    rw [beNat_cons, List.length_cons, pow_succ]
    have := b.isLt
    nlinarith

end Sys2Proof.Machine
end

