-- ==== Sys2Proof/Laws/State.lean ====
section
/-! SUPPORT. One lemma for each field under each shared operation on the state, true by rfl, and the laws of STATUS.ERR. -/

namespace Sys2Proof.Machine

@[simp] theorem setErr_status (s : State) (e : BitVec 4) : (s.setErr e).status = withErr s.status e := rfl
@[simp] theorem setErr_ctrl (s : State) (e : BitVec 4) : (s.setErr e).ctrl = s.ctrl := rfl
@[simp] theorem setErr_keylen (s : State) (e : BitVec 4) : (s.setErr e).keylen = s.keylen := rfl
@[simp] theorem setErr_ctr (s : State) (e : BitVec 4) : (s.setErr e).ctr = s.ctr := rfl
@[simp] theorem setErr_ealg (s : State) (e : BitVec 4) : (s.setErr e).ealg = s.ealg := rfl
@[simp] theorem setErr_edig (s : State) (e : BitVec 4) : (s.setErr e).edig = s.edig := rfl
@[simp] theorem setErr_dlen (s : State) (e : BitVec 4) : (s.setErr e).dlen = s.dlen := rfl
@[simp] theorem setErr_offset (s : State) (e : BitVec 4) : (s.setErr e).offset = s.offset := rfl
@[simp] theorem setErr_tval (s : State) (e : BitVec 4) : (s.setErr e).tval = s.tval := rfl
@[simp] theorem setErr_code (s : State) (e : BitVec 4) : (s.setErr e).code = s.code := rfl
@[simp] theorem setErr_passlen (s : State) (e : BitVec 4) : (s.setErr e).passlen = s.passlen := rfl
@[simp] theorem setErr_key (s : State) (e : BitVec 4) : (s.setErr e).key = s.key := rfl
@[simp] theorem setErr_msg (s : State) (e : BitVec 4) : (s.setErr e).msg = s.msg := rfl
@[simp] theorem setErr_digest (s : State) (e : BitVec 4) : (s.setErr e).digest = s.digest := rfl
@[simp] theorem setErr_pass (s : State) (e : BitVec 4) : (s.setErr e).pass = s.pass := rfl
@[simp] theorem setErr_config (s : State) (e : BitVec 4) : (s.setErr e).config = s.config := rfl
@[simp] theorem setErr_pending (s : State) (e : BitVec 4) : (s.setErr e).pending = s.pending := rfl
@[simp] theorem setErr_replies (s : State) (e : BitVec 4) : (s.setErr e).replies = s.replies := rfl

@[simp] theorem succeed_status (s : State) : (s.succeed).status = withErr s.status 0 := rfl
@[simp] theorem succeed_ctrl (s : State) : (s.succeed).ctrl = s.ctrl := rfl
@[simp] theorem succeed_keylen (s : State) : (s.succeed).keylen = s.keylen := rfl
@[simp] theorem succeed_ctr (s : State) : (s.succeed).ctr = s.ctr := rfl
@[simp] theorem succeed_ealg (s : State) : (s.succeed).ealg = s.ealg := rfl
@[simp] theorem succeed_edig (s : State) : (s.succeed).edig = s.edig := rfl
@[simp] theorem succeed_dlen (s : State) : (s.succeed).dlen = s.dlen := rfl
@[simp] theorem succeed_offset (s : State) : (s.succeed).offset = s.offset := rfl
@[simp] theorem succeed_tval (s : State) : (s.succeed).tval = s.tval := rfl
@[simp] theorem succeed_code (s : State) : (s.succeed).code = s.code := rfl
@[simp] theorem succeed_passlen (s : State) : (s.succeed).passlen = s.passlen := rfl
@[simp] theorem succeed_key (s : State) : (s.succeed).key = s.key := rfl
@[simp] theorem succeed_msg (s : State) : (s.succeed).msg = s.msg := rfl
@[simp] theorem succeed_digest (s : State) : (s.succeed).digest = s.digest := rfl
@[simp] theorem succeed_pass (s : State) : (s.succeed).pass = s.pass := rfl
@[simp] theorem succeed_config (s : State) : (s.succeed).config = s.config := rfl
@[simp] theorem succeed_pending (s : State) : (s.succeed).pending = s.pending := rfl
@[simp] theorem succeed_replies (s : State) : (s.succeed).replies = s.replies := rfl

@[simp] theorem fail_status (s : State) (e : ErrCode) : (s.fail e).status = withErr s.status e.number := rfl
@[simp] theorem fail_ctrl (s : State) (e : ErrCode) : (s.fail e).ctrl = s.ctrl := rfl
@[simp] theorem fail_keylen (s : State) (e : ErrCode) : (s.fail e).keylen = s.keylen := rfl
@[simp] theorem fail_ctr (s : State) (e : ErrCode) : (s.fail e).ctr = s.ctr := rfl
@[simp] theorem fail_ealg (s : State) (e : ErrCode) : (s.fail e).ealg = s.ealg := rfl
@[simp] theorem fail_edig (s : State) (e : ErrCode) : (s.fail e).edig = s.edig := rfl
@[simp] theorem fail_dlen (s : State) (e : ErrCode) : (s.fail e).dlen = s.dlen := rfl
@[simp] theorem fail_offset (s : State) (e : ErrCode) : (s.fail e).offset = s.offset := rfl
@[simp] theorem fail_tval (s : State) (e : ErrCode) : (s.fail e).tval = s.tval := rfl
@[simp] theorem fail_code (s : State) (e : ErrCode) : (s.fail e).code = s.code := rfl
@[simp] theorem fail_passlen (s : State) (e : ErrCode) : (s.fail e).passlen = 0 := rfl
@[simp] theorem fail_key (s : State) (e : ErrCode) : (s.fail e).key = s.key := rfl
@[simp] theorem fail_msg (s : State) (e : ErrCode) : (s.fail e).msg = s.msg := rfl
@[simp] theorem fail_digest (s : State) (e : ErrCode) : (s.fail e).digest = s.digest := rfl
@[simp] theorem fail_pass (s : State) (e : ErrCode) : (s.fail e).pass = clearedPass s.pass := rfl
@[simp] theorem fail_config (s : State) (e : ErrCode) : (s.fail e).config = s.config := rfl
@[simp] theorem fail_pending (s : State) (e : ErrCode) : (s.fail e).pending = s.pending := rfl
@[simp] theorem fail_replies (s : State) (e : ErrCode) : (s.fail e).replies = s.replies := rfl

@[simp] theorem reply_status (s : State) (v : Nat) : (s.reply v).status = s.status := rfl
@[simp] theorem reply_ctrl (s : State) (v : Nat) : (s.reply v).ctrl = s.ctrl := rfl
@[simp] theorem reply_keylen (s : State) (v : Nat) : (s.reply v).keylen = s.keylen := rfl
@[simp] theorem reply_ctr (s : State) (v : Nat) : (s.reply v).ctr = s.ctr := rfl
@[simp] theorem reply_ealg (s : State) (v : Nat) : (s.reply v).ealg = s.ealg := rfl
@[simp] theorem reply_edig (s : State) (v : Nat) : (s.reply v).edig = s.edig := rfl
@[simp] theorem reply_dlen (s : State) (v : Nat) : (s.reply v).dlen = s.dlen := rfl
@[simp] theorem reply_offset (s : State) (v : Nat) : (s.reply v).offset = s.offset := rfl
@[simp] theorem reply_tval (s : State) (v : Nat) : (s.reply v).tval = s.tval := rfl
@[simp] theorem reply_code (s : State) (v : Nat) : (s.reply v).code = s.code := rfl
@[simp] theorem reply_passlen (s : State) (v : Nat) : (s.reply v).passlen = s.passlen := rfl
@[simp] theorem reply_key (s : State) (v : Nat) : (s.reply v).key = s.key := rfl
@[simp] theorem reply_msg (s : State) (v : Nat) : (s.reply v).msg = s.msg := rfl
@[simp] theorem reply_digest (s : State) (v : Nat) : (s.reply v).digest = s.digest := rfl
@[simp] theorem reply_pass (s : State) (v : Nat) : (s.reply v).pass = s.pass := rfl
@[simp] theorem reply_config (s : State) (v : Nat) : (s.reply v).config = s.config := rfl
@[simp] theorem reply_pending (s : State) (v : Nat) : (s.reply v).pending = s.pending := rfl
@[simp] theorem reply_replies (s : State) (v : Nat) : (s.reply v).replies = s.replies ++ [v] := rfl

@[simp] theorem afterReset_status (s : State) : (s.afterReset).status = State.reset.status := rfl
@[simp] theorem afterReset_ctrl (s : State) : (s.afterReset).ctrl = State.reset.ctrl := rfl
@[simp] theorem afterReset_keylen (s : State) : (s.afterReset).keylen = State.reset.keylen := rfl
@[simp] theorem afterReset_ctr (s : State) : (s.afterReset).ctr = State.reset.ctr := rfl
@[simp] theorem afterReset_ealg (s : State) : (s.afterReset).ealg = State.reset.ealg := rfl
@[simp] theorem afterReset_edig (s : State) : (s.afterReset).edig = State.reset.edig := rfl
@[simp] theorem afterReset_dlen (s : State) : (s.afterReset).dlen = State.reset.dlen := rfl
@[simp] theorem afterReset_offset (s : State) : (s.afterReset).offset = State.reset.offset := rfl
@[simp] theorem afterReset_tval (s : State) : (s.afterReset).tval = State.reset.tval := rfl
@[simp] theorem afterReset_code (s : State) : (s.afterReset).code = State.reset.code := rfl
@[simp] theorem afterReset_passlen (s : State) : (s.afterReset).passlen = State.reset.passlen := rfl
@[simp] theorem afterReset_key (s : State) : (s.afterReset).key = State.reset.key := rfl
@[simp] theorem afterReset_msg (s : State) : (s.afterReset).msg = State.reset.msg := rfl
@[simp] theorem afterReset_digest (s : State) : (s.afterReset).digest = State.reset.digest := rfl
@[simp] theorem afterReset_pass (s : State) : (s.afterReset).pass = State.reset.pass := rfl
@[simp] theorem afterReset_config (s : State) : (s.afterReset).config = s.config := rfl
@[simp] theorem afterReset_pending (s : State) : (s.afterReset).pending = s.pending := rfl
@[simp] theorem afterReset_replies (s : State) : (s.afterReset).replies = s.replies := rfl

@[simp] theorem withNextEvent_status (s : State) (e : Event) : (s.withNextEvent e).status = s.status := rfl
@[simp] theorem withNextEvent_ctrl (s : State) (e : Event) : (s.withNextEvent e).ctrl = s.ctrl := rfl
@[simp] theorem withNextEvent_keylen (s : State) (e : Event) : (s.withNextEvent e).keylen = s.keylen := rfl
@[simp] theorem withNextEvent_ctr (s : State) (e : Event) : (s.withNextEvent e).ctr = s.ctr := rfl
@[simp] theorem withNextEvent_ealg (s : State) (e : Event) : (s.withNextEvent e).ealg = s.ealg := rfl
@[simp] theorem withNextEvent_edig (s : State) (e : Event) : (s.withNextEvent e).edig = s.edig := rfl
@[simp] theorem withNextEvent_dlen (s : State) (e : Event) : (s.withNextEvent e).dlen = s.dlen := rfl
@[simp] theorem withNextEvent_offset (s : State) (e : Event) : (s.withNextEvent e).offset = s.offset := rfl
@[simp] theorem withNextEvent_tval (s : State) (e : Event) : (s.withNextEvent e).tval = s.tval := rfl
@[simp] theorem withNextEvent_code (s : State) (e : Event) : (s.withNextEvent e).code = s.code := rfl
@[simp] theorem withNextEvent_passlen (s : State) (e : Event) : (s.withNextEvent e).passlen = s.passlen := rfl
@[simp] theorem withNextEvent_key (s : State) (e : Event) : (s.withNextEvent e).key = s.key := rfl
@[simp] theorem withNextEvent_msg (s : State) (e : Event) : (s.withNextEvent e).msg = s.msg := rfl
@[simp] theorem withNextEvent_digest (s : State) (e : Event) : (s.withNextEvent e).digest = s.digest := rfl
@[simp] theorem withNextEvent_pass (s : State) (e : Event) : (s.withNextEvent e).pass = s.pass := rfl
@[simp] theorem withNextEvent_config (s : State) (e : Event) : (s.withNextEvent e).config = s.config := rfl
@[simp] theorem withNextEvent_pending (s : State) (e : Event) : (s.withNextEvent e).pending = e :: s.pending := rfl
@[simp] theorem withNextEvent_replies (s : State) (e : Event) : (s.withNextEvent e).replies = s.replies := rfl

@[simp] theorem err_of_withErr (st : BitVec 32) (e : BitVec 4) : (withErr st e).extractLsb' 0 4 = e := by
  ext i hi
  rw [BitVec.getElem_extractLsb', withErr, BitVec.getLsbD_append]
  simp [hi]

@[simp] theorem reserved_of_withErr (st : BitVec 32) (e : BitVec 4) :
    (withErr st e).extractLsb' 4 28 = st.extractLsb' 4 28 := by
  ext i hi
  have h : ¬ 4 + i < 4 := by omega
  rw [BitVec.getElem_extractLsb', withErr, BitVec.getLsbD_append]
  simp [h, hi]

@[simp] theorem withErr_withErr (st : BitVec 32) (e e' : BitVec 4) : withErr (withErr st e) e' = withErr st e' := by
  have h := reserved_of_withErr st e
  unfold withErr at h ⊢
  rw [h]

@[simp] theorem err_setErr (s : State) (e : BitVec 4) : (s.setErr e).err = e := err_of_withErr s.status e
@[simp] theorem err_succeed (s : State) : s.succeed.err = 0 := err_of_withErr s.status 0
@[simp] theorem err_fail (s : State) (e : ErrCode) : (s.fail e).err = e.number := err_of_withErr s.status e.number

@[simp] theorem diag_succeed (s : State) : s.succeed.diag = s.diag := rfl
@[simp] theorem diag_fail (s : State) (e : ErrCode) : (s.fail e).diag = s.diag := rfl
@[simp] theorem diag_reply (s : State) (v : Nat) : (s.reply v).diag = s.diag := rfl

@[simp] theorem andThen_done (s : State) (f : State → Ended) : (Ended.done s).andThen f = f s := rfl
@[simp] theorem andThen_failed (s : State) (f : State → Ended) : (Ended.failed s).andThen f = .failed s := rfl
@[simp] theorem state_done (s : State) : (Ended.done s).state = s := rfl
@[simp] theorem state_failed (s : State) : (Ended.failed s).state = s := rfl

end Sys2Proof.Machine
end

