-- ==== Sys2Proof/Laws/Ops.lean ====
section
/-! SUPPORT. What each shared operation and each step command can do, said once: the next state, by cases. -/

namespace Sys2Proof.Machine

theorem read_clearedPass (p : Memory) (x : Nat) : (clearedPass p).read x = if x < 16 then 0 else p.read x :=
  read_clearedPass_aux p x

theorem wf_clearedPass {p : Memory} (h : p.wf 16 = true) : (clearedPass p).wf 16 = true :=
  Memory.wf_writeBytes _ h (by simp [length_padTo])

/-- The operation `fail` has exactly the error effect. -/
theorem fail_errorEffect (s : State) (e : ErrCode) : s.ErrorEffect (s.fail e) e.number :=
  ⟨clearedPass s.pass, rfl, fun i hi => by simp [read_clearedPass, hi],
    fun i hi => by simp [read_clearedPass, Nat.not_lt.mpr hi]⟩

/-- Reading a buffer whose first `n` bytes were written with a padded sequence. -/
theorem read_writePadded (m : Memory) (n : Nat) (bs : List Byte) (h : bs.length ≤ n) (x : Nat) :
    (m.writeBytes 0 (padTo n bs)).read x = if x < n then bs.getD x 0 else m.read x := by
  rw [Memory.read_writeBytes, length_padTo n bs h, getD_padTo]
  simp

theorem read_memWrite (m : Memory) (i n v x : Nat) :
    (m.memWrite i n v).read x =
      if i ≤ x ∧ x < i + n then BitVec.ofNat 8 (v >>> (8 * (n - 1 - (x - i)))) else m.read x := by
  rw [Memory.memWrite, Memory.read_writeBytes, length_beBytes]
  split
  · exact getD_beBytes n v (x - i) (by omega) 0
  · rfl

theorem andThen_cases (r : Ended) (f : State → Ended) :
    (∃ s, r = .done s ∧ r.andThen f = f s) ∨ ∃ s, r = .failed s ∧ r.andThen f = .failed s := by
  cases r with
  | done s => exact .inl ⟨s, rfl, rfl⟩
  | failed s => exact .inr ⟨s, rfl, rfl⟩

theorem hmacStep_cases (s : State) :
    (s.config.hashPresent s.ealg = false ∧ hmacStep s = .failed (s.fail .hash)) ∨
    (s.config.hashPresent s.ealg = true ∧ s.config.keyMax < s.keylen.toNat ∧ hmacStep s = .failed (s.fail .keylen)) ∨
    (s.config.hashPresent s.ealg = true ∧ s.keylen.toNat ≤ s.config.keyMax ∧
      hmacStep s = .done { s with
        digest := s.digest.writeBytes 0 (padTo 64 (hmac s.ealg s.secret s.message))
        dlen := BitVec.ofNat 7 (digestLen s.ealg) }.succeed) := by
  unfold hmacStep
  by_cases h : s.config.hashPresent s.ealg = false
  · exact .inl ⟨h, if_pos h⟩
  · rw [if_neg h]
    by_cases hk : s.config.keyMax < s.keylen.toNat
    · exact .inr (.inl ⟨by simpa using h, hk, if_pos hk⟩)
    · exact .inr (.inr ⟨by simpa using h, Nat.not_lt.mp hk, if_neg hk⟩)

theorem windowOk_iff (n off : Nat) : windowOk n off = true ↔ 1 ≤ n ∧ n ≤ 64 ∧ off + 4 ≤ n := by
  simp [windowOk, and_assoc]

theorem truncStep_cases (s : State) :
    (windowOk s.dlen.toNat (digestOffset s.digest s.dlen.toNat).toNat = false ∧ truncStep s = .failed (s.fail .window)) ∨
    (windowOk s.dlen.toNat (digestOffset s.digest s.dlen.toNat).toNat = true ∧
      truncStep s = .done { s with
        offset := digestOffset s.digest s.dlen.toNat
        tval := BitVec.ofNat 31 (truncValue s.digest (digestOffset s.digest s.dlen.toNat).toNat) }.succeed) := by
  unfold truncStep
  cases h : windowOk s.dlen.toNat (digestOffset s.digest s.dlen.toNat).toNat with
  | false => exact .inl ⟨rfl, by simp [h]⟩
  | true =>
    have hw := (windowOk_iff _ _).mp h
    have hn : ¬ (s.dlen.toNat = 0 ∨ 64 < s.dlen.toNat) := by omega
    exact .inr ⟨rfl, by simp only [h, if_neg hn]; rfl⟩

theorem formatStep_cases (s : State) :
    (10 ^ s.edig.toNat ≤ s.code.toNat ∧ formatStep s = .failed (s.fail .range)) ∨
    (s.code.toNat < 10 ^ s.edig.toNat ∧
      formatStep s = .done { s with
        pass := s.pass.writeBytes 0 (padTo 16 (asciiNumeral s.code.toNat s.edig.toNat))
        passlen := s.edig }.succeed) := by
  unfold formatStep
  by_cases h : 10 ^ s.edig.toNat ≤ s.code.toNat
  · exact .inl ⟨h, by simp [h]⟩
  · exact .inr ⟨Nat.not_le.mp h, by simp [h]⟩

theorem length_asciiNumeral (c d : Nat) : (asciiNumeral c d).length = d := by simp [asciiNumeral]

theorem getD_asciiNumeral (c d i : Nat) (h : i < d) (x : Byte) :
    (asciiNumeral c d).getD i x = asciiDigit (digitOf c d i) := by
  simp [asciiNumeral, List.getD, h]

/-- What serving an event does: a command word executed, or a next state that the event alone determines. -/
theorem serve_cases (e : Event) (s : State) :
    (∃ v, e = .hostWrite cmdNumber v ∧ serve e s = executeWord (commandWord v) s) ∨
    (∃ n r v, e = .hostWrite n v ∧ Reg.ofNumber n = some r ∧ r ≠ .cmd ∧ serve e s = .next (s.writeReg r v)) ∨
    (∃ n v, e = .hostWrite n v ∧ Reg.ofNumber n = none ∧ serve e s = .next s) ∨
    (∃ n, e = .hostRead n ∧ serve e s = .next (s.reply (s.hostRead n))) ∨
    (∃ b i v, e = .hostWriteByte b i v ∧ serve e s = .next (s.hostWriteByte b i v)) ∨
    (∃ b i, e = .hostReadByte b i ∧ serve e s = .next (s.reply (s.hostReadByte b i))) ∨
    (e = .reset ∧ serve e s = .next s.afterReset) := by
  cases e with
  | hostWrite n v =>
    cases h : Reg.ofNumber n with
    | none => exact .inr (.inr (.inl ⟨n, v, rfl, h, by simp [serve, serveHostWrite, h]⟩))
    | some r =>
      by_cases hr : r = .cmd
      · subst hr
        have hn : n = cmdNumber := by
          unfold Reg.ofNumber at h
          split at h <;> simp_all [cmdNumber]
        exact .inl ⟨v, by rw [hn], by simp [serve, serveHostWrite, h]⟩
      · refine .inr (.inl ⟨n, r, v, rfl, h, hr, ?_⟩)
        cases r <;> first | exact absurd rfl hr | simp [serve, serveHostWrite, h]
  | hostRead n => exact .inr (.inr (.inr (.inl ⟨n, rfl, rfl⟩)))
  | hostWriteByte b i v => exact .inr (.inr (.inr (.inr (.inl ⟨b, i, v, rfl, rfl⟩))))
  | hostReadByte b i => exact .inr (.inr (.inr (.inr (.inr (.inl ⟨b, i, rfl, rfl⟩)))))
  | reset => exact .inr (.inr (.inr (.inr (.inr (.inr ⟨rfl, rfl⟩)))))

/-- Executing a word: the command it spells, or the error effect with ERR_ILLEGAL. -/
theorem executeWord_cases (w : CmdWord) (s : State) :
    (∃ i, decode w = .command i ∧ executeWord w s = exec i s) ∨
    (∃ why, decode w = .illegal why ∧ executeWord w s = .next (s.fail .illegal)) := by
  unfold executeWord
  cases h : decode w with
  | command i => exact .inl ⟨i, rfl, rfl⟩
  | illegal why => exact .inr ⟨why, rfl, rfl⟩

theorem step_pending_nil (s : State) (h : s.pending = []) : step s = .next s := by
  simp [step, serveNext, h]

theorem step_pending_cons (s : State) (e : Event) (rest : List Event) (h : s.pending = e :: rest) :
    step s = serve e { s with pending := rest } := by
  simp [step, serveNext, h]

end Sys2Proof.Machine
end

