-- ==== Sys2Proof/Laws/PerInstr.lean ====
section
/-! SUPPORT. The family EncodedFields: the fields of the word a command is encoded as (30_encoding.md R81 to R83, R87), one
lemma for each constructor of Instr. -/

namespace Sys2Proof.Laws.EncodedFields

/-- The numbers of the two operands a command carries; 0 where it carries none (30_encoding.md R81). -/
def operandBits : Instr → Nibble × Nibble
  | .gen alg dig => (alg.bits, dig.bits)
  | .resolve alg dig => (alg.bits, dig.bits)
  | .nop | .encode | .hmac | .trunc | .reduce | .format | .zero => (0, 0)

/-- The encoded word has the command's opcode, a reserved field of 0, and its operands in their fields. -/
def Statement (i : Instr) : Prop :=
  opField (encode i) = i.opcode ∧ rsvField (encode i) = 0 ∧ algField (encode i) = (operandBits i).1 ∧
    digField (encode i) = (operandBits i).2

theorem fields (op : BitVec 8) (a d : Nibble) :
    opField (wordOfFields op 0 a d) = op ∧ rsvField (wordOfFields op 0 a d) = 0 ∧ algField (wordOfFields op 0 a d) = a ∧
      digField (wordOfFields op 0 a d) = d :=
  ⟨opField_wordOfFields .., rsvField_wordOfFields .., algField_wordOfFields .., digField_wordOfFields ..⟩

theorem nop : Statement .nop := fields _ _ _
theorem gen (alg : AlgSel) (dig : DigSel) : Statement (.gen alg dig) := fields _ _ _
theorem resolve (alg : AlgSel) (dig : DigSel) : Statement (.resolve alg dig) := fields _ _ _
theorem encode : Statement .encode := fields _ _ _
theorem hmac : Statement .hmac := fields _ _ _
theorem trunc : Statement .trunc := fields _ _ _
theorem reduce : Statement .reduce := fields _ _ _
theorem format : Statement .format := fields _ _ _
theorem zero : Statement .zero := fields _ _ _

end Sys2Proof.Laws.EncodedFields
end

