-- ==== Sys2Proof/Tests/Slice0.lean ====
section
/-! SUPPORT. Tests: words and terms written out from 30_encoding.md, one-step tests on the vectors of 95_test_vectors.md and
48_hash_functions.md R156, and for each statement with hypotheses a concrete state and operands that meet them. -/

namespace Sys2Proof.Tests

open Sys2Proof Sys2Proof.Machine

/-- Whether an outcome is a next state with a property. -/
def yields (o : Host.Outcome State Fault Refusal) (p : State → Bool) : Bool :=
  match o with
  | .next t => p t
  | .fault _ => false
  | .refused _ => false

/-- The bytes of a buffer that hold the bytes of `v`, most significant first. -/
def bytes (n v : Nat) : Memory := Memory.memWrite [] 0 n v

/-- The reset state with the 20-byte secret ASCII "12345678901234567890" (95_test_vectors.md, conventions) and a counter. -/
def withK20 (ctr : BitVec 64) : State :=
  { State.reset with key := bytes 20 0x3132333435363738393031323334353637383930, keylen := 20, ctr := ctr }

/-- The reset state with a digest of `n` bytes. -/
def withDigest (n : BitVec 7) (v : Nat) : State := { State.reset with digest := bytes n.toNat v, dlen := n }

/-- The reset state of an engine without an MD5 core (95_test_vectors.md V70). -/
def withoutMd5 : State := { State.reset with config := { Config.standard with hasMd5 := false } }

/-- The reset state with a list of host events to serve. -/
def withEvents (es : List Event) : State := { State.reset with pending := es }

/-! ## Decoding and well-formedness -/

/-- 95_test_vectors.md V60, the legal words, and R91's named selectors. -/
theorem test_legal_words :
    decode 0x00000000 = .command .nop ∧ decode 0x01000000 = .command (.gen .unset .unset) ∧
    decode 0x01000016 = .command (.gen .sha1 (.count 6)) ∧
    decode 0x010000FF = .command (.gen (.unknown 15) (.count 15)) ∧
    decode 0x0100009A = .command (.gen (.unknown 9) (.count 10)) ∧
    decode 0x02000040 = .command (.resolve .md5 .unset) ∧ decode 0x02000020 = .command (.resolve .sha256 .unset) ∧
    decode 0x02000038 = .command (.resolve .sha512 (.count 8)) ∧
    decode 0x03000000 = .command .encode ∧ decode 0x04000000 = .command .hmac ∧ decode 0x05000000 = .command .trunc ∧
    decode 0x06000000 = .command .reduce ∧ decode 0x07000000 = .command .format ∧ decode 0x08000000 = .command .zero := by
  decide

/-- 95_test_vectors.md V60, the illegal words. -/
theorem test_illegal_words :
    [0x00000001, 0x00000100, 0x01000116, 0x01800016, 0x02010000, 0x03000016, 0x05000010, 0x08000001, 0x09000000, 0x10000016,
      0xFFFFFFFF].all (fun w => decodeTableWord 32 w = none) = true := by decide

/-- R88: the reason a word is illegal, one word for each of the three clauses. -/
theorem test_illegal_reasons :
    decode 0x01000116 = .illegal (.reservedBits 1) ∧ decode 0x03000016 = .illegal (.operandBits 1 6) ∧
    decode 0x09000000 = .illegal (.noSuchOpcode 9) := by decide

/-- 30_encoding.md R84: a selector with a name of its own is not called unknown. -/
theorem test_illformed_algorithm :
    ¬ WellFormed (.gen (.unknown 3) .unset) ∧ ¬ WellFormed (.resolve (.unknown 0) .unset) ∧
    WellFormed (.gen (.unknown 5) .unset) := by decide

/-- 30_encoding.md R85: 0 is the sentinel, not a digit count. -/
theorem test_illformed_digit_count :
    ¬ WellFormed (.gen .unset (.count 0)) ∧ ¬ WellFormed (.resolve .sha1 (.count 0)) ∧
    WellFormed (.resolve .sha1 (.count 1)) := by decide

/-! ## The hash functions (48_hash_functions.md R156): "abc", and the empty message for SHA-1 -/

theorem test_sha1_abc : beNat (sha1 [0x61, 0x62, 0x63]) = 0xa9993e364706816aba3e25717850c26c9cd0d89d := by decide +kernel

theorem test_sha1_empty : beNat (sha1 []) = 0xda39a3ee5e6b4b0d3255bfef95601890afd80709 := by decide +kernel

theorem test_sha256_abc :
    beNat (sha256 [0x61, 0x62, 0x63]) = 0xba7816bf8f01cfea414140de5dae2223b00361a396177a9cb410ff61f20015ad := by
  decide +kernel

theorem test_sha512_abc :
    beNat (sha512 [0x61, 0x62, 0x63]) =
      0xddaf35a193617abacc417349ae20413112e6fa4e89a97ea20a9eeee64b55d39a2192992a274fc1a836ba3c23a3feebbd454d4423643ce80e2a9ac94fa54ca49f := by
  decide +kernel

theorem test_md5_abc : beNat (md5 [0x61, 0x62, 0x63]) = 0x900150983cd24fb0d6963f7d28e17f72 := by decide +kernel

/-! ## One step of each command -/

/-- V73: NOP after an error keeps STATUS. -/
theorem test_nop_keeps_status :
    yields (step ({ State.reset with status := 4 }.withFetchWord 32 0x00000000)) (fun t => t.status = 4) = true := by decide

/-- V60: after an illegal word STATUS.ERR is 1 and the passcode is gone, CODE is kept. -/
theorem test_illegal_word_effect :
    yields (step ({ State.reset with code := 755224, pass := bytes 6 0x373535323234, passlen := 6 }.withFetchWord 32 0x09000000))
      (fun t => t.status = 1 ∧ t.pass = [] ∧ t.passlen = 0 ∧ t.code = 755224) = true := by decide

/-- V40: `RESOLVE 9, 10`. -/
theorem test_resolve_unknown :
    yields (step (State.reset.withFetchWord 32 0x0200009A)) (fun t => t.ealg = .sha1 ∧ t.edig = 10 ∧ t.status = 0) = true := by
  decide

/-- V40: `RESOLVE MD5, 1`. -/
theorem test_resolve_md5 :
    yields (step (State.reset.withFetchWord 32 0x02000041)) (fun t => hashNumber t.ealg = 4 ∧ t.edig = 1) = true := by decide

/-- V41: the counter 0x0102030405060708. -/
theorem test_encode :
    yields (step ({ State.reset with ctr := 0x0102030405060708 }.withFetchWord 32 0x03000000))
      (fun t => t.msg = [(0, 1), (1, 2), (2, 3), (3, 4), (4, 5), (5, 6), (6, 7), (7, 8)]) = true := by decide

/-- Row I1: the keyed hash of the counter 1. -/
theorem test_hmac_sha1 :
    yields (step ({ withK20 1 with msg := [(7, 1)] }.withFetchWord 32 0x04000000))
      (fun t => t.digest = bytes 20 0x75a48a19d4cbe100644e8ac1397eea747a2d33ab ∧ t.dlen = 20 ∧ t.status = 0) = true := by
  decide +kernel

/-- V71: an absent hash is reported before a KEYLEN above KEY_MAX. -/
theorem test_hmac_error_order :
    yields (step ({ withoutMd5 with ealg := .md5, keylen := 300 }.withFetchWord 32 0x04000000)) (fun t => t.status = 2) = true ∧
    yields (step ({ withoutMd5 with ealg := .sha1, keylen := 300 }.withFetchWord 32 0x04000000)) (fun t => t.status = 3) = true := by
  decide

/-- V42: a 20-byte digest with offset 10. -/
theorem test_trunc_window :
    yields (step ((withDigest 20 0x1f8698690e02ca16618550ef7f19da8e945b555a).withFetchWord 32 0x05000000))
      (fun t => t.offset = 10 ∧ t.tval = 0x50EF7F19 ∧ t.status = 0) = true := by decide +kernel

/-- V44a, V44b: a 16-byte digest with the offsets 13 and 12. -/
theorem test_trunc_boundary :
    yields (step ((withDigest 16 0xa0a1a2a3a4a5a6a7a8a9aaabacadae0d).withFetchWord 32 0x05000000))
      (fun t => t.offset = 0 ∧ t.tval = 0 ∧ t.status = 4) = true ∧
    yields (step ((withDigest 16 0xa0a1a2a3a4a5a6a7a8a9aaab8102030c).withFetchWord 32 0x05000000))
      (fun t => t.offset = 12 ∧ t.tval = 0x0102030C ∧ t.status = 0) = true := by decide +kernel

/-- V47: eight digits. -/
theorem test_reduce :
    yields (step ({ State.reset with tval := 1284755224, edig := 8 }.withFetchWord 32 0x06000000))
      (fun t => t.code = 84755224) = true := by decide

/-- V47: ten digits or more keep the whole value. -/
theorem test_reduce_wide :
    yields (step ({ State.reset with tval := 2147483647, edig := 15 }.withFetchWord 32 0x06000000))
      (fun t => t.code = 2147483647) = true := by decide

/-- V48 (the source's S2): "000042". -/
theorem test_format_pads :
    yields (step ({ State.reset with code := 42, edig := 6, passlen := 15, pass := bytes 15 (10 ^ 35) }.withFetchWord 32 0x07000000))
      (fun t => t.pass = bytes 6 0x303030303432 ∧ t.passlen = 6 ∧ t.status = 0) = true := by decide +kernel

/-- V49: a code of more digits than EDIG. -/
theorem test_format_range :
    yields (step ({ State.reset with code := 84755224, edig := 6 }.withFetchWord 32 0x07000000))
      (fun t => t.pass = [] ∧ t.passlen = 0 ∧ t.status = 5 ∧ t.code = 84755224) = true := by decide +kernel

/-- Row I0, the source's must-pass vector: "755224". -/
theorem test_gen_sha1 :
    yields (step ((withK20 0).withFetchWord 32 0x01000016))
      (fun t => t.status = 0 ∧ t.offset = 0 ∧ t.tval = 1284755224 ∧ t.code = 755224 ∧ t.passlen = 6 ∧
        t.pass = bytes 6 0x373535323234) = true := by decide +kernel

/-- V24: an MD5 digest whose window leaves it; the digest stays. -/
theorem test_gen_md5_window :
    yields (step ((withK20 4).withFetchWord 32 0x01000046))
      (fun t => t.status = 4 ∧ t.ealg = .md5 ∧ t.dlen = 16 ∧ t.digest = bytes 16 0xf3c8b0510095f06bc2b3d60cb2f9719d ∧
        t.tval = 0 ∧ t.pass = [] ∧ t.passlen = 0) = true := by decide +kernel

/-- R145: ZERO clears the secret and keeps CTRL. -/
theorem test_zero :
    yields (step ({ withK20 7 with ctrl := 1, status := 3 }.withFetchWord 32 0x08000000))
      (fun t => t = { State.reset with ctrl := 1 }) = true := by decide +kernel

/-! ## Host accesses -/

/-- V83: writes that do not fit, or to read-only registers. -/
theorem test_host_writes :
    yields (core.run 4 (withEvents [.hostWrite 7 0x94, .hostWrite 3 0x10014, .hostWrite 9 0x80000001, .hostWrite 6 9]))
      (fun t => t = { State.reset with dlen := 20, keylen := 20, tval := 1 }) = true := by decide

/-- V82, V81: CTRL reads back its bit 0, or 0 without the diagnostic path. -/
theorem test_ctrl :
    yields (core.run 2 (withEvents [.hostWrite 2 0xFFFFFFFF, .hostRead 2])) (fun t => t.replies = [1]) = true ∧
    yields (core.run 2 { withEvents [.hostWrite 2 1, .hostRead 2] with config := { Config.standard with diagPresent := false } })
      (fun t => t.replies = [0]) = true := by decide

/-- V80: a gated byte reads 0 while DIAG = 0; KEY reads 0 always. -/
theorem test_gating :
    yields (core.run 4 { withDigest 20 0x75a48a19d4cbe100644e8ac1397eea747a2d33ab with
        key := [(0, 0x31)], pending := [.hostReadByte 2 0, .hostWrite 2 1, .hostReadByte 2 0, .hostReadByte 0 0] })
      (fun t => t.replies = [0, 0x75, 0]) = true := by decide +kernel

/-! ## Witnesses: the hypotheses of the statements can be met, each clause at the edge of its range -/

/-- The state that GEN leaves on row I0, as far as `State.Inv` looks at it: a state other than reset that meets it. -/
def passcodeInHand : State :=
  { withK20 0 with ctrl := 1, pass := bytes 6 0x373535323234, passlen := 6, pending := [.hostRead 10] }

theorem witness_DecodeOfEncodeIsTheCommand :
    WellFormed (.gen (.unknown 5) (.count 15)) ∧ WellFormed (.resolve (.unknown 15) (.count 1)) ∧ WellFormed .zero := by decide

theorem witness_EncodeOfDecodeIsTheWord : decode 0x020000FF = .command (.resolve (.unknown 15) (.count 15)) := by decide

theorem witness_WordSpellsCommandIffItMatchesItsRow :
    decode 0x01000000 = .command (.gen .unset .unset) ∧
    decode 0x020000F1 = .command (.resolve (.unknown 15) (.count 1)) := by decide

theorem witness_IllegalWordsAreExactlyThese :
    decode 0x09000000 = .illegal (.noSuchOpcode 9) ∧ decode 0x02000100 = .illegal (.reservedBits 1) ∧
    decode 0x00000001 = .illegal (.operandBits 0 1) ∧ decode 0x00800000 = .illegal (.reservedBits 0x8000) := by decide

theorem witness_StepExecutesTheDecodedCommand :
    (State.reset.withFetchWord 32 0x0100009A).pending = [.hostWrite 0 (0x0100009A : CmdWord).toNat] ∧
    decode 0x0100009A = .command (.gen (.unknown 9) (.count 10)) := by decide

theorem witness_StepOnIllegalWordHasOnlyTheErrorEffect :
    (withEvents [.hostWrite 0 (0x09000000 : CmdWord).toNat]).pending = .hostWrite 0 (0x09000000 : CmdWord).toNat :: [] ∧
    decode 0x09000000 = .illegal (.noSuchOpcode 9) := by decide

theorem witness_StepWithoutEventChangesNothing : State.reset.pending = [] := rfl

theorem witness_ResetEventRestoresTheResetState : (withEvents [.reset, .hostRead 2]).pending = .reset :: [.hostRead 2] := rfl

theorem witness_ResolvingAResolvedPairChangesNothing :
    yields (exec (.resolve (.unknown 9) .unset) State.reset)
      (fun t => AlgSel.sha1.bits = hashNumber t.ealg ∧ (DigSel.count 6).bits = t.edig) = true := by decide

theorem witness_UnsetOrUnknownAlgorithmIsSha1 :
    AlgSel.unset.bits = 0 ∧ AlgSel.sha1.bits = 1 ∧ 5 ≤ (AlgSel.unknown 5).bits.toNat ∧ 5 ≤ (AlgSel.unknown 15).bits.toNat := by
  decide

theorem witness_CounterEncodingIsABijection : [0, 0, 0, 0, 0x02, 0x35, 0x23, (0xEC : Byte)].length = 8 := rfl

theorem witness_BufferAccessesAreBigEndian : 0xFFFFFFFF < 256 ^ 4 := by decide

theorem witness_CanonicalBuffersAreDeterminedByTheirBytes :
    Memory.wf 8 [(0, 1), (7, 0xFF)] = true ∧ 7 < 8 ∧ (∀ a : Nat, Memory.read [(7, 1)] a = Memory.read [(7, 1)] a) := by
  refine ⟨by decide, by decide, fun _ => rfl⟩

theorem witness_HmacIsTheTwoNestedHashes :
    blockLen .sha1 < (List.replicate 65 (0xAA : Byte)).length ∧ (List.replicate 64 (0xAA : Byte)).length ≤ blockLen .sha1 := by
  decide

/-- V70, V32 and V39c: no MD5 core; a KEYLEN of 257 and of 256. -/
theorem witness_HmacWritesTheKeyedHash :
    (let s := { withoutMd5 with ealg := .md5 }
     s.config.hashPresent s.ealg = false) ∧
    (let s := { State.reset with keylen := 257 }
     s.config.hashPresent s.ealg = true ∧ s.config.keyMax < s.keylen.toNat) ∧
    (let s := { State.reset with keylen := 256 }
     s.config.hashPresent s.ealg = true ∧ s.keylen.toNat ≤ s.config.keyMax) := by decide

theorem witness_KeyBytesBeyondKeylenAreIgnored :
    ∀ j < ({ State.reset with keylen := 1, key := [(0, 7)] } : State).keylen.toNat,
      Memory.read [(0, 7), (1, 9)] j = Memory.read [(0, 7)] j := by decide

/-- V45a, V45b, V44a, V44b: no digest, 65 bytes, the offsets 13 and 12 of a 16-byte digest. -/
theorem witness_TruncExtractsTheWindow :
    (withDigest 0 0).dlen.toNat = 0 ∧ 64 < (withDigest 65 0).dlen.toNat ∧
    16 < ((withDigest 16 0x0d).digest.read 15).toNat % 16 + 4 ∧ ((withDigest 16 0x0c).digest.read 15).toNat % 16 + 4 ≤ 16 ∧
    (withDigest 64 0).dlen.toNat ≤ 64 ∧ 1 ≤ (withDigest 1 0).dlen.toNat := by decide +kernel

theorem witness_WindowErrorAtLength16AndLengths19To64 :
    19 ≤ (withDigest 19 0).dlen.toNat ∧ (withDigest 64 0).dlen.toNat ≤ 64 ∧
    (withDigest 16 0x0d).dlen.toNat = 16 ∧ ((withDigest 16 0x0c).digest.read 15).toNat % 16 ≤ 12 := by decide +kernel

theorem witness_ReduceIsTheDecimalRemainder : 10 ≤ ({ State.reset with edig := 10 } : State).edig.toNat := by decide

theorem witness_FormatWritesThePaddedNumeral :
    10 ^ ({ State.reset with code := 1000000 } : State).edig.toNat ≤ ({ State.reset with code := 1000000 } : State).code.toNat ∧
    ({ State.reset with code := 999999 } : State).code.toNat < 10 ^ ({ State.reset with code := 999999 } : State).edig.toNat := by
  decide

theorem witness_DigitsSpellTheCode : 999999 < 10 ^ 6 ∧ 0 < 10 ^ 0 := by decide

/-- V24 and V25: the offsets 13 and 12 of an MD5 digest; V70 and V32 for the two other errors. -/
theorem witness_GenRunsTheSevenSteps :
    withoutMd5.config.hashPresent (resolveAlg AlgSel.md5.bits) = false ∧
    (let s := { State.reset with keylen := 257 }
     s.config.hashPresent (resolveAlg AlgSel.md5.bits) = true ∧ s.config.keyMax < s.keylen.toNat) ∧
    (withK20 4).config.hashPresent .md5 = true ∧ (withK20 4).keylen.toNat ≤ (withK20 4).config.keyMax ∧
    16 < ((hmac .md5 ((withK20 4).key.readBytes 0 20) (be64 4)).getD 15 0).toNat % 16 + 4 ∧
    ((hmac .md5 ((withK20 39).key.readBytes 0 20) (be64 39)).getD 15 0).toNat % 16 + 4 ≤ 16 := by decide +kernel

/-- Two states that agree on what GEN depends on and on nothing else. -/
theorem witness_GenDependsOnItsOperandsOnly :
    let s := withK20 3
    let s' := { withK20 3 with status := 4, ctrl := 1, code := 7, key := (withK20 3).key.write 20 0x55, msg := [(0, 9)] }
    s.config = s'.config ∧ s.keylen = s'.keylen ∧ s.ctr = s'.ctr ∧ (∀ i < s.keylen.toNat, s.key.read i = s'.key.read i) ∧
      s ≠ s' := by decide +kernel

theorem witness_GenFailsOnlyForMd5Windows :
    let s := { State.reset with keylen := 256 }
    (∀ h, s.config.hashPresent h = true) ∧ s.keylen.toNat ≤ s.config.keyMax :=
  ⟨fun h => by cases h <;> rfl, by decide⟩

theorem witness_NoCommandButZeroWritesOperands : Instr.gen .unset .unset ≠ .zero := by decide

theorem witness_CommandsDoNotDependOnEarlierErrors : Instr.trunc ≠ .nop := by decide

theorem witness_CommandsRaiseOnlyTheirErrors : Instr.hmac ≠ .zero := by decide

/-- An illegal word, and the legal word of a command that fails here. -/
theorem witness_AnErrorLeavesNoPasscode :
    decode 0x09000000 ≠ .command .nop ∧ yields (executeWord 0x09000000 State.reset) (fun t => t.err ≠ 0) = true ∧
    decode 0x05000000 ≠ .command .nop ∧ yields (executeWord 0x05000000 State.reset) (fun t => t.err ≠ 0) = true := by decide

theorem witness_EveryStepKeepsTheInvariant : passcodeInHand.Inv where
  edigPos := by decide
  passOk := by decide +kernel
  errLegal := by decide
  statusReserved := by decide
  errorNoPasscode := by decide
  ctrlReserved := by decide
  diagPath := by decide
  keyWf := by decide +kernel
  msgWf := by decide
  digestWf := by decide
  passWf := by decide +kernel
  configLegal := by decide

theorem witness_ReachableStatesObeyTheSpecsInvariants :
    ({ Config.standard with keyMax := 64, hasSha1 := false } : Config).Legal ∧ Config.standard.Legal := by decide

theorem witness_HostWriteStoresTheLowBits :
    (withEvents [.hostWrite 11 5]).pending = .hostWrite 11 5 :: [] ∧
    ∀ n ∈ [2, 3, 4, 7, 9, 1, 5, 6, 8, 10, 11, 12], (withEvents [.hostWrite n (2 ^ 64)]).pending = .hostWrite n (2 ^ 64) :: [] := by
  decide

theorem witness_HostReadReturnsTheRegister :
    ∀ n ∈ [0, 1, 2, 3, 4, 5, 6, 7, 8, 9, 10, 11, 12], (withEvents [.hostRead n]).pending = .hostRead n :: [] := by decide

theorem witness_HostWriteByteStoresOneByte :
    (∀ c ∈ [(0, 255), (0, 256), (1, 7), (1, 8), (2, 63), (2, 64), (3, 0), (4, 0)],
      (withEvents [.hostWriteByte c.1 c.2 1]).pending = .hostWriteByte c.1 c.2 1 :: []) ∧
    255 < (withEvents []).config.keyMax ∧ (withEvents []).config.keyMax ≤ 256 := by decide

theorem witness_HostReadByteReturnsTheByte :
    ∀ b ∈ [0, 1, 2, 3, 4], (withEvents [.hostReadByte b 15]).pending = .hostReadByte b 15 :: [] := by decide

theorem witness_CtrlReadsBackItsDiagBit :
    (withEvents [.hostWrite 2 0xFFFFFFFF, .hostRead 2]).pending = [.hostWrite 2 0xFFFFFFFF, .hostRead 2] := rfl

theorem witness_ReadsNeverRevealTheKey :
    ∀ e ∈ (withEvents [.hostRead 9, .hostReadByte 0 0]).pending, (∃ n, e = .hostRead n) ∨ ∃ b i, e = .hostReadByte b i := by
  simp [withEvents]

theorem witness_GatedStateIsHiddenWhileDiagIsOff :
    (withEvents [.hostRead 9, .hostReadByte 2 19]).diag = false ∧
    ∀ e ∈ (withEvents [.hostRead 9, .hostReadByte 2 19]).pending, (∃ n, e = .hostRead n) ∨ ∃ b i, e = .hostReadByte b i := by
  simp [withEvents, State.diag, State.reset]

theorem witness_HostAccessesTouchNoResult :
    (withEvents [.hostWrite 1 5]).pending = .hostWrite 1 5 :: [] ∧ Event.hostWrite 1 5 ≠ .reset ∧
    ∀ v, Event.hostWrite 1 5 ≠ .hostWrite 0 v := by
  refine ⟨rfl, by decide, fun v h => by simp at h⟩

end Sys2Proof.Tests
end

section
/-! PROOFS. What the commands never write (10_state.md R56): the inputs the host gives the engine. -/

namespace Sys2Proof.Machine

/-- The two states agree on everything that is the host's to give and no command but ZERO writes: KEY, KEYLEN, CTR and CTRL
(10_state.md R56), and the model's own fields. -/
structure State.SameInputs (s t : State) : Prop where
  key : t.key = s.key
  keylen : t.keylen = s.keylen
  ctr : t.ctr = s.ctr
  ctrl : t.ctrl = s.ctrl
  config : t.config = s.config
  pending : t.pending = s.pending
  replies : t.replies = s.replies

theorem State.SameInputs.refl (s : State) : s.SameInputs s := ⟨rfl, rfl, rfl, rfl, rfl, rfl, rfl⟩

theorem State.SameInputs.trans {s t u : State} (hst : s.SameInputs t) (htu : t.SameInputs u) : s.SameInputs u where
  key := htu.key.trans hst.key
  keylen := htu.keylen.trans hst.keylen
  ctr := htu.ctr.trans hst.ctr
  ctrl := htu.ctrl.trans hst.ctrl
  config := htu.config.trans hst.config
  pending := htu.pending.trans hst.pending
  replies := htu.replies.trans hst.replies

theorem fail_sameInputs (s : State) (e : ErrCode) : s.SameInputs (s.fail e) := ⟨rfl, rfl, rfl, rfl, rfl, rfl, rfl⟩

theorem resolveStep_sameInputs (alg dig : Nibble) (s : State) : s.SameInputs (resolveStep alg dig s).state :=
  ⟨rfl, rfl, rfl, rfl, rfl, rfl, rfl⟩

theorem encodeStep_sameInputs (s : State) : s.SameInputs (encodeStep s).state := ⟨rfl, rfl, rfl, rfl, rfl, rfl, rfl⟩

theorem hmacStep_sameInputs (s : State) : s.SameInputs (hmacStep s).state := by
  obtain ⟨-, h⟩ | ⟨-, -, h⟩ | ⟨-, -, h⟩ := hmacStep_cases s <;> rw [h]
  · exact fail_sameInputs s .hash
  · exact fail_sameInputs s .keylen
  · exact ⟨rfl, rfl, rfl, rfl, rfl, rfl, rfl⟩

theorem truncStep_sameInputs (s : State) : s.SameInputs (truncStep s).state := by
  obtain ⟨-, h⟩ | ⟨-, h⟩ := truncStep_cases s <;> rw [h]
  · exact fail_sameInputs s .window
  · exact ⟨rfl, rfl, rfl, rfl, rfl, rfl, rfl⟩

theorem reduceStep_sameInputs (s : State) : s.SameInputs (reduceStep s).state := ⟨rfl, rfl, rfl, rfl, rfl, rfl, rfl⟩

theorem formatStep_sameInputs (s : State) : s.SameInputs (formatStep s).state := by
  obtain ⟨-, h⟩ | ⟨-, h⟩ := formatStep_cases s <;> rw [h]
  · exact fail_sameInputs s .range
  · exact ⟨rfl, rfl, rfl, rfl, rfl, rfl, rfl⟩

/-- Steps that keep the inputs keep them one after the other, stopped early or not. -/
theorem andThen_sameInputs {s : State} {r : Ended} {f : State → Ended} (hr : s.SameInputs r.state)
    (hf : ∀ u : State, u.SameInputs (f u).state) : s.SameInputs (r.andThen f).state := by
  cases r with
  | done u => exact hr.trans (hf u)
  | failed u => exact hr

theorem genSteps_sameInputs (alg dig : Nibble) (s : State) : s.SameInputs (genSteps alg dig s).state := by
  have hEncode := andThen_sameInputs (resolveStep_sameInputs alg dig s) encodeStep_sameInputs
  have hHmac := andThen_sameInputs hEncode hmacStep_sameInputs
  have hTrunc := andThen_sameInputs hHmac truncStep_sameInputs
  have hReduce := andThen_sameInputs hTrunc reduceStep_sameInputs
  exact andThen_sameInputs hReduce formatStep_sameInputs

theorem exec_zero (s : State) : exec .zero s = .next { s.afterReset with ctrl := s.ctrl } := rfl

/-- Every command but ZERO completes and keeps the inputs (10_state.md R56). -/
theorem exec_sameInputs {i : Instr} (hi : i ≠ .zero) (s : State) : ∃ t, exec i s = .next t ∧ s.SameInputs t := by
  cases i with
  | nop => exact ⟨_, rfl, .refl s⟩
  | gen alg dig => exact ⟨_, rfl, genSteps_sameInputs alg.bits dig.bits s⟩
  | resolve alg dig => exact ⟨_, rfl, resolveStep_sameInputs alg.bits dig.bits s⟩
  | encode => exact ⟨_, rfl, encodeStep_sameInputs s⟩
  | hmac => exact ⟨_, rfl, hmacStep_sameInputs s⟩
  | trunc => exact ⟨_, rfl, truncStep_sameInputs s⟩
  | reduce => exact ⟨_, rfl, reduceStep_sameInputs s⟩
  | format => exact ⟨_, rfl, formatStep_sameInputs s⟩
  | zero => exact absurd rfl hi

/-- Settles O42: ZERO writes its reset values but keeps CTRL, and every other command keeps all the inputs. -/
theorem noCommandButZeroWritesOperands : Obligations.NoCommandButZeroWritesOperands := by
  intro i s
  by_cases hi : i = .zero
  · subst hi
    exact ⟨_, exec_zero s, rfl, fun h => absurd rfl h⟩
  · obtain ⟨t, ht, same⟩ := exec_sameInputs hi s
    exact ⟨t, ht, same.ctrl, fun _ => ⟨same.key, same.keylen, same.ctr⟩⟩

end Sys2Proof.Machine
end

section
/-! PROOFS. What a host write of a register stores (10_state.md R22, R33, R42, R43). -/

namespace Sys2Proof.Machine

theorem Reg.ofNumber_eq_none {n : Nat} (hn : 12 ≤ n) : Reg.ofNumber n = none := by
  unfold Reg.ofNumber
  split
  case h_13 => rfl
  all_goals omega

/-- A step on a host write to a register other than CMD is the write to that register. -/
theorem step_hostWrite_register {s : State} {n v : Nat} {rest : List Event} {r : Reg}
    (hs : s.pending = .hostWrite n v :: rest) (hn : Reg.ofNumber n = some r) (hr : r ≠ .cmd) :
    step s = .next (({ s with pending := rest } : State).writeReg r v) := by
  rw [step_pending_cons s _ rest hs]
  cases r with
  | cmd => exact absurd rfl hr
  | status | ctrl | keylen | ctr | ealg | edig | dlen | offset | tval | code | passlen =>
    simp [serve, serveHostWrite, hn]

/-- A step on a host write to a number that names no register only takes the event off the list. -/
theorem step_hostWrite_unnamed {s : State} {n v : Nat} {rest : List Event}
    (hs : s.pending = .hostWrite n v :: rest) (hn : Reg.ofNumber n = none) :
    step s = .next { s with pending := rest } := by
  rw [step_pending_cons s _ rest hs]
  simp [serve, serveHostWrite, hn]

/-- The bits of a value that fit a register are its remainder (10_state.md R33). -/
theorem ofNat_lowBits (w v : Nat) : BitVec.ofNat w (v % 2 ^ w) = BitVec.ofNat w v :=
  BitVec.eq_of_toNat_eq (by simp)

theorem ctrlOfWrite_eq (diagPresent : Bool) (v : Nat) :
    ctrlOfWrite diagPresent v = if diagPresent = true ∧ v % 2 = 1 then 1 else 0 := by
  simp [ctrlOfWrite, Nat.testBit_zero]

/-- Settles O50, number by number: the register each number names, and what a write to it stores. -/
theorem hostWriteStoresTheLowBits : Obligations.HostWriteStoresTheLowBits := by
  intro s n v rest hs
  simp only [ofNat_lowBits, ← ctrlOfWrite_eq]
  refine ⟨?_, ?_, ?_, ?_, ?_, ?_⟩
  · rintro rfl; exact step_hostWrite_register hs (r := .ctrl) rfl (by decide)
  · rintro rfl; exact step_hostWrite_register hs (r := .keylen) rfl (by decide)
  · rintro rfl; exact step_hostWrite_register hs (r := .ctr) rfl (by decide)
  · rintro rfl; exact step_hostWrite_register hs (r := .dlen) rfl (by decide)
  · rintro rfl; exact step_hostWrite_register hs (r := .tval) rfl (by decide)
  · rintro (rfl | rfl | rfl | rfl | rfl | hn)
    · exact step_hostWrite_register hs (r := .status) rfl (by decide)
    · exact step_hostWrite_register hs (r := .ealg) rfl (by decide)
    · exact step_hostWrite_register hs (r := .edig) rfl (by decide)
    · exact step_hostWrite_register hs (r := .offset) rfl (by decide)
    · exact step_hostWrite_register hs (r := .code) rfl (by decide)
    · obtain rfl | hn := hn.eq_or_lt
      · exact step_hostWrite_register hs (r := .passlen) rfl (by decide)
      · exact step_hostWrite_unnamed hs (Reg.ofNumber_eq_none hn)

end Sys2Proof.Machine
end

section
/-! PROOFS. The state after reset (10_state.md R57). -/

namespace Sys2Proof.Machine

/-- Settles O13: the registers by their values at reset, the buffers because each is empty and an unlisted byte reads 0x00. -/
theorem resetStateIsAsTheSpecSays : Obligations.ResetStateIsAsTheSpecSays :=
  ⟨rfl, by decide, rfl, by decide, rfl, rfl, rfl, rfl, rfl, rfl, rfl, rfl, rfl, rfl,
    fun i => ⟨Memory.read_nil i, Memory.read_nil i, Memory.read_nil i, Memory.read_nil i⟩⟩

end Sys2Proof.Machine
end

section
/-! PROOFS. Big-endian accesses to a buffer (20_memory.md R61). -/

namespace Sys2Proof.Machine

/-- The `n` lowest base-`b` digits of a number, the most significant first, spell its remainder. -/
theorem sum_digits_mul_pow (b n v : Nat) :
    ∑ k ∈ Finset.range n, v / b ^ (n - 1 - k) % b * b ^ (n - 1 - k) = v % b ^ n := by
  rw [Finset.sum_range_reflect (fun j => v / b ^ j % b * b ^ j) n]
  induction n with
  | zero => simp [Nat.mod_one]
  | succ n ih => rw [Finset.sum_range_succ, ih, Nat.mod_pow_succ, Nat.mul_comm (b ^ n)]

theorem beNat_eq_sum (bs : List Byte) :
    beNat bs = ∑ k ∈ Finset.range bs.length, (bs.getD k 0).toNat * 256 ^ (bs.length - 1 - k) := by
  induction bs with
  | nil => simp
  | cons b bs ih =>
    rw [beNat_cons, List.length_cons, Finset.sum_range_succ', ih, Nat.add_comm]
    simp [Nat.sub_sub, Nat.add_comm]

/-- R61: `MemRead` is the weighted sum of the bytes it names. -/
theorem Memory.memRead_eq_sum (m : Memory) (i n : Nat) :
    m.memRead i n = ∑ k ∈ Finset.range n, (m.read (i + k)).toNat * 256 ^ (n - 1 - k) := by
  rw [memRead, beNat_eq_sum, length_readBytes]
  refine Finset.sum_congr rfl fun k hk => ?_
  rw [getD_readBytes m i n k (Finset.mem_range.mp hk)]

/-- R61: byte `k` that `MemWrite` stores is a base-256 digit of the value. -/
theorem Memory.toNat_read_memWrite (m : Memory) {i n v k : Nat} (hk : k < n) :
    ((m.memWrite i n v).read (i + k)).toNat = v / 256 ^ (n - 1 - k) % 256 := by
  have named : i ≤ i + k ∧ i + k < i + n := by omega
  have weight : 2 ^ (8 * (n - 1 - k)) = 256 ^ (n - 1 - k) := Nat.pow_mul 2 8 (n - 1 - k)
  rw [read_memWrite, if_pos named, Nat.add_sub_cancel_left, BitVec.toNat_ofNat, Nat.shiftRight_eq_div_pow, weight]

theorem Memory.read_memWrite_of_not_named (m : Memory) {i n v a : Nat} (ha : a < i ∨ i + n ≤ a) :
    (m.memWrite i n v).read a = m.read a := by
  have notNamed : ¬ (i ≤ a ∧ a < i + n) := by omega
  rw [read_memWrite, if_neg notNamed]

/-- `MemRead` of what `MemWrite` stored gives the part of the value that fits `n` bytes. -/
theorem Memory.memRead_memWrite (m : Memory) (i n v : Nat) : (m.memWrite i n v).memRead i n = v % 256 ^ n := by
  calc (m.memWrite i n v).memRead i n
      = ∑ k ∈ Finset.range n, ((m.memWrite i n v).read (i + k)).toNat * 256 ^ (n - 1 - k) := memRead_eq_sum _ i n
    _ = ∑ k ∈ Finset.range n, v / 256 ^ (n - 1 - k) % 256 * 256 ^ (n - 1 - k) :=
        Finset.sum_congr rfl fun k hk => by rw [toNat_read_memWrite m (Finset.mem_range.mp hk)]
    _ = v % 256 ^ n := sum_digits_mul_pow 256 n v

/-- Settles O25: the weighted sum, the bytes `MemWrite` names and those it does not, and the value read back, which fits. -/
theorem bufferAccessesAreBigEndian : Obligations.BufferAccessesAreBigEndian :=
  ⟨Memory.memRead_eq_sum, fun m i n v hv =>
    ⟨fun _ hk => m.toNat_read_memWrite hk, fun _ ha => m.read_memWrite_of_not_named ha,
      (m.memRead_memWrite i n v).trans (Nat.mod_eq_of_lt hv)⟩⟩

end Sys2Proof.Machine
end

section
/-! PROOFS. Which words spell a command and which are illegal (30_encoding.md R87, R88, R90): the word a command is encoded as,
what the decoder can answer, and the masks of the opcode table. -/

namespace Sys2Proof

open Laws.EncodedFields (operandBits)

/-! ## The word of a command -/

theorem encode_eq_wordOfFields (i : Instr) : encode i = wordOfFields i.opcode 0 (operandBits i).1 (operandBits i).2 := by
  cases i <;> rfl

theorem toNat_encode (i : Instr) :
    (encode i).toNat = i.opcode.toNat * 2 ^ 24 + (operandBits i).1.toNat * 16 + (operandBits i).2.toNat := by
  simp [encode_eq_wordOfFields, toNat_wordOfFields]

theorem decode_encode {i : Instr} (hi : WellFormed i) : decode (encode i) = .command i := by
  rw [encode_eq_wordOfFields, decode_wordOfFields]
  cases i with
  | gen a d | resolve a d =>
    obtain ⟨ha, hd⟩ := Bool.and_eq_true_iff.mp hi
    simp [Instr.opcode, operandBits, a.ofBits_bits ha, d.ofBits_bits hd]
  | nop | encode | hmac | trunc | reduce | format | zero => rfl

/-! ## The clauses of R88 -/

/-- The three clauses of 30_encoding.md R88, on the word as a number: an opcode above 8; a reserved bit that is 1 in a word of
GEN or RESOLVE; a bit below the opcode that is 1 in another word. -/
def MatchesNoRow (w : CmdWord) : Prop :=
  0x09000000 ≤ w.toNat ∨
  ((w.toNat / 2 ^ 24 = 1 ∨ w.toNat / 2 ^ 24 = 2) ∧ w.toNat / 2 ^ 8 % 2 ^ 16 ≠ 0) ∨
  (w.toNat / 2 ^ 24 ≠ 1 ∧ w.toNat / 2 ^ 24 ≠ 2 ∧ w.toNat % 2 ^ 24 ≠ 0)

/-- A failed test of the decoder puts the word under one of the clauses. -/
theorem matchesNoRow_wordOfFields {op : BitVec 8} {rsv : BitVec 16} {a d : Nibble}
    (h : rsv ≠ 0 ∨ op ≠ 1 ∧ op ≠ 2 ∧ (a ≠ 0 ∨ d ≠ 0 ∨ 8 < op.toNat)) : MatchesNoRow (wordOfFields op rsv a d) := by
  have := rsv.isLt
  have := a.isLt
  have := d.isLt
  simp only [ne_eq, ← BitVec.toNat_inj, BitVec.ofNat_eq_ofNat, BitVec.toNat_ofNat] at h
  rw [MatchesNoRow, toNat_wordOfFields]
  omega

theorem not_matchesNoRow_encode (i : Instr) : ¬ MatchesNoRow (encode i) := by
  have := (operandBits i).1.isLt
  have := (operandBits i).2.isLt
  rw [MatchesNoRow, toNat_encode]
  cases i with
  | gen a d | resolve a d => simp only [Instr.opcode, BitVec.ofNat_eq_ofNat, BitVec.toNat_ofNat]; omega
  | nop | encode | hmac | trunc | reduce | format | zero => decide

/-! ## What the decoder can answer (R90) -/

/-- The answer on a word whose reserved field is 0, test by test: a well-formed command whose encoding the word is, or that
the word is illegal, which is then under one of the clauses of R88. -/
theorem decode_wordOfFields_cases {op : BitVec 8} {a d : Nibble} {r : Decoded} (hr : decode (wordOfFields op 0 a d) = r) :
    (∃ i, r = .command i ∧ WellFormed i ∧ encode i = wordOfFields op 0 a d) ∨
    ∃ why, r = .illegal why ∧ MatchesNoRow (wordOfFields op 0 a d) := by
  have operandsWf : ((AlgSel.ofBits a).wellFormed && (DigSel.ofBits d).wellFormed) = true := by
    rw [AlgSel.wellFormed_ofBits, DigSel.wellFormed_ofBits, Bool.and_self]
  simp only [decode_wordOfFields, ite_eq_iff] at hr
  obtain ⟨rfl, rfl⟩ | ⟨notGen, ⟨rfl, rfl⟩ | ⟨notResolve, ⟨operands, rfl⟩ | ⟨noOperands, hr⟩⟩⟩ := hr
  · exact .inl ⟨_, rfl, operandsWf, by simp [encode_eq_wordOfFields, Instr.opcode, operandBits]⟩
  · exact .inl ⟨_, rfl, operandsWf, by simp [encode_eq_wordOfFields, Instr.opcode, operandBits]⟩
  · exact .inr ⟨_, rfl, matchesNoRow_wordOfFields (.inr ⟨notGen, notResolve, operands.imp_right .inl⟩)⟩
  obtain ⟨rfl, rfl⟩ : a = 0 ∧ d = 0 := by simpa using noOperands
  obtain ⟨rfl, rfl⟩ | ⟨notNop, ⟨rfl, rfl⟩ | ⟨notEncode, ⟨rfl, rfl⟩ | ⟨notHmac, ⟨rfl, rfl⟩ | ⟨notTrunc, ⟨rfl, rfl⟩ |
    ⟨notReduce, ⟨rfl, rfl⟩ | ⟨notFormat, ⟨rfl, rfl⟩ | ⟨notZero, rfl⟩⟩⟩⟩⟩⟩⟩ := hr
  · exact .inl ⟨.nop, rfl, rfl, rfl⟩
  · exact .inl ⟨.encode, rfl, rfl, rfl⟩
  · exact .inl ⟨.hmac, rfl, rfl, rfl⟩
  · exact .inl ⟨.trunc, rfl, rfl, rfl⟩
  · exact .inl ⟨.reduce, rfl, rfl, rfl⟩
  · exact .inl ⟨.format, rfl, rfl, rfl⟩
  · exact .inl ⟨.zero, rfl, rfl, rfl⟩
  have noSuchOpcode : 8 < op.toNat := by bv_omega
  exact .inr ⟨_, rfl, matchesNoRow_wordOfFields (.inr ⟨notGen, notResolve, .inr (.inr noSuchOpcode)⟩)⟩

/-- The answer on any word. -/
theorem decode_cases (w : CmdWord) :
    (∃ i, decode w = .command i ∧ WellFormed i ∧ encode i = w) ∨ ∃ why, decode w = .illegal why ∧ MatchesNoRow w := by
  rw [← wordOfFields_fields w]
  by_cases hrsv : rsvField w = 0
  · rw [hrsv]
    exact decode_wordOfFields_cases rfl
  · exact .inr ⟨_, decode_of_rsvField_ne _ (by rwa [rsvField_wordOfFields]), matchesNoRow_wordOfFields (.inl hrsv)⟩

theorem encode_of_decode {w : CmdWord} {i : Instr} (hw : decode w = .command i) : encode i = w := by
  obtain ⟨j, answer, -, encoded⟩ | ⟨why, answer, -⟩ := decode_cases w
  · obtain rfl : i = j := by simpa using hw.symm.trans answer
    exact encoded
  · simp [answer] at hw

/-! ## The rows of the opcode table (R87) -/

/-- A row of format Z: its mask is the whole word. -/
theorem decode_eq_command_iff_mask {i : Instr} (hi : WellFormed i) (w : CmdWord) :
    decode w = .command i ↔ w &&& 0xFFFFFFFF = encode i := by
  have mask : w &&& 0xFFFFFFFF = w := BitVec.and_allOnes
  rw [mask]
  exact ⟨fun hw => (encode_of_decode hw).symm, fun hw => hw ▸ decode_encode hi⟩

/-- The mask of format I keeps the opcode and the reserved field. -/
theorem wordOfFields_and_mask (op : BitVec 8) (rsv : BitVec 16) (a d : Nibble) :
    wordOfFields op rsv a d &&& 0xFFFFFF00 = wordOfFields op rsv 0 0 := by
  change (op ++ rsv ++ a ++ d) &&& (BitVec.allOnes 8 ++ BitVec.allOnes 16 ++ 0#4 ++ 0#4) = _
  simp only [BitVec.and_append, BitVec.and_allOnes, BitVec.and_zero]
  rfl

theorem fields_of_and_mask {w : CmdWord} {op : BitVec 8} (hw : w &&& 0xFFFFFF00 = wordOfFields op 0 0 0) :
    opField w = op ∧ rsvField w = 0 := by
  rw [← wordOfFields_fields w, wordOfFields_and_mask] at hw
  have hop := congrArg opField hw
  have hrsv := congrArg rsvField hw
  simpa only [opField_wordOfFields, rsvField_wordOfFields] using And.intro hop hrsv

/-- A row of format I: a command of two operands, laid out by its opcode and their numbers. -/
theorem exists_decode_eq_command_iff_mask {op : BitVec 8} {cmd : AlgSel → DigSel → Instr}
    (hwf : ∀ a d, (cmd a d).wellFormed = (a.wellFormed && d.wellFormed))
    (hencode : ∀ a d, encode (cmd a d) = wordOfFields op 0 a.bits d.bits) (w : CmdWord) :
    (∃ a d, decode w = .command (cmd a d)) ↔ w &&& 0xFFFFFF00 = wordOfFields op 0 0 0 := by
  constructor
  · rintro ⟨a, d, hw⟩
    rw [← encode_of_decode hw, hencode, wordOfFields_and_mask]
  · intro hw
    obtain ⟨hop, hrsv⟩ := fields_of_and_mask hw
    have encoded : encode (cmd (.ofBits (algField w)) (.ofBits (digField w))) = w := by
      rw [hencode, AlgSel.bits_ofBits, DigSel.bits_ofBits, ← hop, ← hrsv, wordOfFields_fields]
    have wf : WellFormed (cmd (.ofBits (algField w)) (.ofBits (digField w))) := by
      rw [WellFormed, hwf, AlgSel.wellFormed_ofBits, DigSel.wellFormed_ofBits, Bool.and_self]
    exact ⟨_, _, encoded ▸ decode_encode wf⟩

/-- The operands of a command are bits 7:4 and 3:0 of a word that spells it. -/
theorem operandBits_of_decode {w : CmdWord} {i : Instr} (hw : decode w = .command i) :
    (operandBits i).1.toNat = w.toNat / 16 % 16 ∧ (operandBits i).2.toNat = w.toNat % 16 := by
  have value := toNat_encode i
  rw [encode_of_decode hw] at value
  have := (operandBits i).1.isLt
  have := (operandBits i).2.isLt
  omega

/-- Settles O3: a row of format Z is one word, a row of format I the words that agree above the operands. -/
theorem wordSpellsCommandIffItMatchesItsRow : Obligations.WordSpellsCommandIffItMatchesItsRow := fun w =>
  have formatZ {i : Instr} (hi : WellFormed i) := decode_eq_command_iff_mask hi w
  ⟨formatZ (i := .nop) rfl,
    exists_decode_eq_command_iff_mask (op := 0x01) (cmd := .gen) (fun _ _ => rfl) (fun _ _ => rfl) w,
    exists_decode_eq_command_iff_mask (op := 0x02) (cmd := .resolve) (fun _ _ => rfl) (fun _ _ => rfl) w,
    formatZ (i := .encode) rfl, formatZ (i := .hmac) rfl, formatZ (i := .trunc) rfl, formatZ (i := .reduce) rfl,
    formatZ (i := .format) rfl, formatZ (i := .zero) rfl,
    fun a d hw => hw.elim (operandBits_of_decode (i := .gen a d)) (operandBits_of_decode (i := .resolve a d))⟩

/-! ## The illegal words (R88) -/

theorem decode_illegal_iff (w : CmdWord) : (∃ why, decode w = .illegal why) ↔ MatchesNoRow w := by
  obtain ⟨i, answer, -, rfl⟩ | ⟨why, answer, clause⟩ := decode_cases w
  · simp [answer, not_matchesNoRow_encode i]
  · exact iff_of_true ⟨why, answer⟩ clause

/-- Settles O4: the clauses by the decoder's answers, and the error effect as the meaning of every illegal word. -/
theorem illegalWordsAreExactlyThese : Obligations.IllegalWordsAreExactlyThese := by
  refine fun w => ⟨decode_illegal_iff w, fun s why illegal => ?_⟩
  obtain ⟨i, command, -⟩ | ⟨-, -, executed⟩ := Machine.executeWord_cases w s
  · simp [illegal] at command
  · exact ⟨_, executed, Machine.fail_errorEffect s .illegal⟩

end Sys2Proof
end

section
/-! PROOFS. RESOLVE: the two resolution functions and the command that writes their values (40_resolve.md R100 to R102). -/

namespace Sys2Proof.Machine

theorem resolveDigits_zero : resolveDigits 0 = 6 := rfl

theorem resolveDigits_of_ne_zero {d : Nibble} (hd : d ≠ 0) : resolveDigits d = d := if_neg hd

/-- The number of a resolved algorithm, test by test (40_resolve.md R102). -/
theorem hashNumber_resolveAlg (a : Nibble) :
    hashNumber (resolveAlg a) = if a = 2 then 2 else if a = 3 then 3 else if a = 4 then 4 else 1 := by
  simp only [resolveAlg, apply_ite hashNumber]
  rfl

/-- Settles O18: the digit count by whether it is the sentinel 0, the algorithm by the tests of R102. -/
theorem resolutionFunctionsAreTheSpecs : Obligations.ResolutionFunctionsAreTheSpecs := by
  refine ⟨fun d => ⟨fun sentinel => ?_, fun given => ?_⟩, fun a => ?_⟩
  · obtain rfl : d = 0 := BitVec.eq_of_toNat_eq sentinel
    rw [resolveDigits_zero]
    rfl
  · exact resolveDigits_of_ne_zero (by rintro rfl; exact given rfl)
  · rw [hashNumber_resolveAlg]
    simp only [apply_ite BitVec.toNat, ← BitVec.toNat_inj]
    rfl

theorem encode_resolve_and_mask (a : AlgSel) (d : DigSel) : encode (.resolve a d) &&& 0xFFFFFF00 = 0x02000000 := by
  have row : wordOfFields 0x02 0 0 0 = 0x02000000 := by decide
  rw [encode_eq_wordOfFields, wordOfFields_and_mask]
  exact row

/-- RESOLVE writes the two selectors and ends in success; it has no failing branch (40_resolve.md R100). -/
theorem exec_resolve (a : AlgSel) (d : DigSel) (s : State) :
    exec (.resolve a d) s = .next { s with edig := resolveDigits d.bits, ealg := resolveAlg a.bits }.succeed := rfl

/-- Settles O19: the row of the opcode table, and the whole next state from the meaning of RESOLVE. -/
theorem resolveWritesTheSelectorsOnly : Obligations.ResolveWritesTheSelectorsOnly := fun a d s =>
  ⟨encode_resolve_and_mask a d, exec_resolve a d s⟩

end Sys2Proof.Machine
end

section
/-! PROOFS. ENCODE and the eight bytes of the counter (41_encode_hmac.md R110, R111). -/

namespace Sys2Proof.Machine

/-! ## The encoding `Be64` (R110) -/

theorem beNat_eq_ofDigits (bs : List Byte) : beNat bs = Nat.ofDigits 256 (bs.map BitVec.toNat).reverse := by
  simp [beNat, Nat.ofDigits_eq_foldr, List.foldl_map, Nat.mul_comm, Nat.add_comm]

/-- Byte sequences of one length that spell one number are equal. -/
theorem eq_of_beNat_eq {bs bs' : List Byte} (hlength : bs.length = bs'.length) (h : beNat bs = beNat bs') : bs = bs' := by
  rw [beNat_eq_ofDigits, beNat_eq_ofDigits] at h
  have isDigit (l : List Byte) : ∀ d ∈ (l.map BitVec.toNat).reverse, d < 256 := by
    simpa using fun b _ => b.isLt
  have digits := Nat.ofDigits_inj_of_len_eq (by decide) (by simpa using hlength) (isDigit bs) (isDigit bs') h
  exact List.map_injective_iff.mpr (fun _ _ => BitVec.eq_of_toNat_eq) (List.reverse_injective digits)

theorem toNat_getD_beBytes (n v : Nat) {k : Nat} (hk : k < n) :
    ((beBytes n v).getD k 0).toNat = v / 2 ^ (8 * (n - 1 - k)) % 256 := by
  rw [getD_beBytes n v k hk, BitVec.toNat_ofNat, Nat.shiftRight_eq_div_pow]

/-- The bytes of a number spell the part of it that fits them. -/
theorem beNat_beBytes (n v : Nat) : beNat (beBytes n v) = v % 256 ^ n := by
  rw [beNat_eq_sum, length_beBytes, ← sum_digits_mul_pow 256 n v]
  refine Finset.sum_congr rfl fun k hk => ?_
  rw [toNat_getD_beBytes n v (Finset.mem_range.mp hk), Nat.pow_mul]

theorem length_be64 (c : BitVec 64) : (be64 c).length = 8 := length_beBytes 8 c.toNat

theorem beNat_be64 (c : BitVec 64) : beNat (be64 c) = c.toNat :=
  (beNat_beBytes 8 c.toNat).trans (Nat.mod_eq_of_lt c.isLt)

/-- The only value that a sequence of 8 bytes can encode is the number it spells. -/
theorem be64_eq_iff {bs : List Byte} (hbs : bs.length = 8) (c : BitVec 64) :
    be64 c = bs ↔ c = BitVec.ofNat 64 (beNat bs) := by
  have fits := beNat_lt bs
  rw [hbs] at fits
  constructor
  · rintro rfl
    rw [beNat_be64, BitVec.ofNat_toNat, BitVec.setWidth_eq]
  · rintro rfl
    refine eq_of_beNat_eq ((length_be64 _).trans hbs.symm) ?_
    rw [beNat_be64, BitVec.toNat_ofNat]
    exact Nat.mod_eq_of_lt fits

/-- Settles O24: the bytes one by one, and the number a sequence spells as its only preimage. -/
theorem counterEncodingIsABijection : Obligations.CounterEncodingIsABijection :=
  ⟨fun c => ⟨length_be64 c, fun _ hk => toNat_getD_beBytes 8 c.toNat hk⟩, fun bs hbs =>
    ⟨BitVec.ofNat 64 (beNat bs), (be64_eq_iff hbs _).mpr rfl, fun c => (be64_eq_iff hbs c).mp⟩⟩

/-! ## The command (R111) -/

/-- ENCODE writes the counter to MSG and ends in success; it has no failing branch (R111). -/
theorem exec_encode (s : State) :
    exec .encode s = .next { s with msg := s.msg.memWrite 0 8 s.ctr.toNat }.succeed := rfl

/-- Settles O23: the word is the one ENCODE is encoded as, and MSG is what `MemWrite` leaves. -/
theorem encodeWritesTheCounterBigEndian : Obligations.EncodeWritesTheCounterBigEndian := by
  refine ⟨decode_encode (i := .encode) rfl, fun s => ⟨_, exec_encode s, fun k hk => ?_, fun k hk => ?_⟩⟩
  · rw [read_memWrite, if_pos (by omega)]
    exact BitVec.eq_of_toNat_eq (by simp)
  · exact s.msg.read_memWrite_of_not_named (.inr (by omega))

end Sys2Proof.Machine
end

section
/-! PROOFS. The digest lengths and HMAC (41_encode_hmac.md R112 to R114). -/

namespace Sys2Proof.Machine

/-! ## The digest lengths (R112, R113) -/

theorem digestLen_le_64 (h : HashAlg) : digestLen h ≤ 64 := by
  cases h <;> decide

/-- Each hash function writes out the words of its final chaining value, whose bytes make up the digest length (R112). -/
theorem length_hashOf (h : HashAlg) (m : List Byte) : (hashOf h m).length = digestLen h := by
  cases h with
  | sha1 => simp [hashOf, sha1, digestLen]
  | sha256 => simp [hashOf, sha256, Sha2State.words, digestLen]
  | sha512 => simp [hashOf, sha512, Sha2State.words, digestLen]
  | md5 => simp [hashOf, md5, leBytes, digestLen]

/-- The length law of R113. -/
theorem length_hmac (h : HashAlg) (key msg : List Byte) : (hmac h key msg).length = digestLen h := length_hashOf h _

/-! ## The command (R114) -/

theorem exec_hmac (s : State) : exec .hmac s = .next (hmacStep s).state := rfl

/-- What DIGEST reads as once a keyed hash was written to all its 64 bytes (R114). -/
theorem read_writeDigest (m : Memory) (h : HashAlg) (key msg : List Byte) (x : Nat) :
    (m.writeBytes 0 (padTo 64 (hmac h key msg))).read x = if x < 64 then (hmac h key msg).getD x 0 else m.read x :=
  read_writePadded m 64 _ (length_hmac h key msg ▸ digestLen_le_64 h) x

/-- The bytes of a keyed hash past its length are the zeros of the filled-up DIGEST. -/
theorem getD_hmac_of_le {h : HashAlg} {i : Nat} (hi : digestLen h ≤ i) (key msg : List Byte) :
    (hmac h key msg).getD i 0 = 0x00 :=
  List.getD_eq_default _ _ (length_hmac h key msg ▸ hi)

/-- Settles O29, branch by branch of step 4 in their order; on success DIGEST is read byte by byte. -/
theorem hmacWritesTheKeyedHash : Obligations.HmacWritesTheKeyedHash := by
  refine ⟨decode_encode (i := .hmac) rfl, fun s => ?_⟩
  have executed := exec_hmac s
  obtain ⟨absent, h⟩ | ⟨present, tooLong, h⟩ | ⟨present, fits, h⟩ := hmacStep_cases s <;> rw [h] at executed
  · exact ⟨fun _ => ⟨_, executed, fail_errorEffect s .hash⟩, by simp [absent], by simp [absent]⟩
  · exact ⟨by simp [present], fun _ _ => ⟨_, executed, fail_errorEffect s .keylen⟩,
      fun _ fits => absurd tooLong (Nat.not_lt.mpr fits)⟩
  · refine ⟨by simp [present], fun _ tooLong => absurd tooLong (Nat.not_lt.mpr fits),
      fun _ _ => ⟨_, executed, fun i hi => ?_, fun i hlo hhi => ?_, fun i hi => ?_⟩⟩
    · rw [read_writeDigest, if_pos (hi.trans_le (digestLen_le_64 s.ealg))]
      rfl
    · rw [read_writeDigest, if_pos hhi, getD_hmac_of_le hlo]
    · rw [read_writeDigest, if_neg (Nat.not_lt.mpr hi)]

end Sys2Proof.Machine
end

section
/-! PROOFS. TRUNC and the window it extracts (42_truncate_reduce_format.md R120, R121). -/

namespace Sys2Proof.Machine

/-- The offset is the low nibble of the last digest byte (R120). -/
theorem toNat_digestOffset (digest : Memory) (n : Nat) :
    (digestOffset digest n).toNat = (digest.read (n - 1)).toNat % 16 := BitVec.toNat_setWidth 4 _

/-- The window at the offset lies inside the digest (R121), in terms of the digest's last byte. -/
theorem windowOk_digestOffset_iff (digest : Memory) (n : Nat) :
    windowOk n (digestOffset digest n).toNat = true ↔
      1 ≤ n ∧ n ≤ 64 ∧ (digest.read (n - 1)).toNat % 16 + 4 ≤ n := by
  rw [windowOk_iff, toNat_digestOffset]

/-- The mask of R120 keeps the low 31 bits of the window. -/
theorem truncValue_eq_mod (digest : Memory) (off : Nat) : truncValue digest off = digest.memRead off 4 % 2 ^ 31 :=
  Nat.and_two_pow_sub_one_eq_mod _ 31

/-- Every truncated value fits TVAL. -/
theorem toNat_ofNat_truncValue (digest : Memory) (off : Nat) :
    (BitVec.ofNat 31 (truncValue digest off)).toNat = digest.memRead off 4 % 2 ^ 31 := by
  rw [BitVec.toNat_ofNat, truncValue_eq_mod, Nat.mod_mod]

theorem exec_trunc (s : State) : exec .trunc s = .next (truncStep s).state := rfl

/-- Settles O32, by whether the window at the offset lies inside the digest. -/
theorem truncExtractsTheWindow : Obligations.TruncExtractsTheWindow := by
  refine ⟨decode_encode (i := .trunc) rfl, fun s => ?_⟩
  have executed := exec_trunc s
  have inside := windowOk_digestOffset_iff s.digest s.dlen.toNat
  obtain ⟨misses, h⟩ | ⟨fits, h⟩ := truncStep_cases s <;> rw [h] at executed
  · have failed : ∃ t, exec .trunc s = .next t ∧ s.ErrorEffect t 4 := ⟨_, executed, fail_errorEffect s .window⟩
    exact ⟨fun _ => failed, fun hlo hhi => ⟨fun _ => failed, fun hoff =>
      absurd (misses.symm.trans (inside.mpr ⟨hlo, hhi, hoff⟩)) Bool.false_ne_true⟩⟩
  · obtain ⟨hlo, hhi, hoff⟩ := inside.mp fits
    exact ⟨fun badLength => by omega, fun _ _ => ⟨fun leaves => absurd hoff (Nat.not_le.mpr leaves), fun _ =>
      ⟨_, _, executed, toNat_digestOffset s.digest _, toNat_ofNat_truncValue s.digest _⟩⟩⟩

end Sys2Proof.Machine
end

section
/-! PROOFS. NOP and ZERO (43_generate_and_system.md R144, R145). -/

namespace Sys2Proof.Machine

/-- Settles O16: the word is the one NOP is encoded as, and its meaning is the unchanged state. -/
theorem nopChangesNothing : Obligations.NopChangesNothing :=
  ⟨decode_encode (i := .nop) rfl, fun _ => rfl⟩

/-- ZERO on a state that ZERO left: the reset values are the same, and CTRL is kept once more (R145). -/
theorem exec_zero_after_zero (s : State) :
    exec .zero { s.afterReset with ctrl := s.ctrl } = .next { s.afterReset with ctrl := s.ctrl } :=
  exec_zero { s.afterReset with ctrl := s.ctrl }

/-- Settles O17: the state that ZERO leaves, field by field; its buffers are empty, so every byte reads 0x00. -/
theorem zeroClearsEverythingButCtrl : Obligations.ZeroClearsEverythingButCtrl := by
  refine ⟨decode_encode (i := .zero) rfl, fun s => ⟨_, exec_zero s, exec_zero_after_zero s, ?_⟩⟩
  have cleared (i : Nat) := Memory.read_nil i
  exact ⟨rfl, rfl, rfl, rfl, rfl, rfl, rfl, rfl, rfl, rfl, rfl,
    fun i => ⟨cleared i, cleared i, cleared i, cleared i⟩, rfl, rfl, rfl⟩

end Sys2Proof.Machine
end

section
/-! PROOFS. GEN and the states its steps go through (43_generate_and_system.md R140). -/

namespace Sys2Proof.Machine

/-! ## The error of an earlier step has no effect on a later one -/

/-- A step whose end does not depend on the STATUS.ERR it starts from. -/
def IgnoresErr (f : State → Ended) : Prop := ∀ (s : State) (e : BitVec 4), f (s.setErr e) = f s

/-! Every end of a step, success or failure, overwrites ERR: `withErr_withErr` is what makes each of these hold. -/

theorem encodeStep_ignoresErr : IgnoresErr encodeStep := fun s e => by
  simp [encodeStep, State.succeed, State.setErr]

theorem hmacStep_ignoresErr : IgnoresErr hmacStep := fun s e => by
  simp [hmacStep, State.secret, State.message, State.succeed, State.fail, State.setErr]

theorem truncStep_ignoresErr : IgnoresErr truncStep := fun s e => by
  simp [truncStep, State.succeed, State.fail, State.setErr]

theorem reduceStep_ignoresErr : IgnoresErr reduceStep := fun s e => by
  simp [reduceStep, State.succeed, State.setErr]

theorem formatStep_ignoresErr : IgnoresErr formatStep := fun s e => by
  simp [formatStep, State.succeed, State.fail, State.setErr]

/-- Only the last write of ERR inside one GEN is seen (log 17). -/
theorem andThen_done_succeed {f : State → Ended} (hf : IgnoresErr f) (s : State) :
    (Ended.done s.succeed).andThen f = f s := hf s 0

/-! ## Steps 1 to 3: EDIG, EALG and MSG -/

/-- What steps 1 to 3 write, ERR aside (40_resolve.md R100, 41_encode_hmac.md R111). -/
def State.afterEncode (alg dig : Nibble) (s : State) : State :=
  { s with edig := resolveDigits dig, ealg := resolveAlg alg, msg := s.msg.memWrite 0 8 s.ctr.toNat }

theorem resolveStep_andThen_encodeStep (alg dig : Nibble) (s : State) :
    (resolveStep alg dig s).andThen encodeStep = .done (s.afterEncode alg dig).succeed :=
  andThen_done_succeed encodeStep_ignoresErr { s with edig := resolveDigits dig, ealg := resolveAlg alg }

/-- The bytes of MSG after step 3 are those that ENCODE writes. -/
theorem read_msg_afterEncode (alg dig : Nibble) (s : State) :
    (∀ k < 8, (s.afterEncode alg dig).msg.read k = (s.ctr >>> (8 * (7 - k))).setWidth 8) ∧
      ∀ k, 8 ≤ k → (s.afterEncode alg dig).msg.read k = s.msg.read k := by
  obtain ⟨m, executed, bytes⟩ := encodeWritesTheCounterBigEndian.2 s
  rw [exec_encode] at executed
  injection executed with same
  have written : (s.afterEncode alg dig).msg = m := congrArg State.msg same
  rwa [written]

/-- The bytes at the place where a byte sequence was written are the sequence. -/
theorem Memory.readBytes_writeBytes (m : Memory) (i : Nat) (bs : List Byte) :
    (m.writeBytes i bs).readBytes i bs.length = bs := by
  refine List.ext_getElem (length_readBytes _ _ _) fun k hk hk' => ?_
  simp [readBytes, read_writeBytes, hk']

/-- The message of step 4 is the counter's encoding `Be64` (41_encode_hmac.md R110). -/
theorem message_afterEncode (alg dig : Nibble) (s : State) : (s.afterEncode alg dig).message = be64 s.ctr := by
  have written := s.msg.readBytes_writeBytes 0 (be64 s.ctr)
  rwa [length_be64] at written

/-! ## Step 4: DIGEST and DLEN -/

/-- The keyed hash that step 4 takes: of the message under the secret (41_encode_hmac.md R114). -/
def State.keyedHash (s : State) : List Byte := hmac s.ealg s.secret s.message

theorem keyedHash_afterEncode (alg dig : Nibble) (s : State) :
    (s.afterEncode alg dig).keyedHash = hmac (resolveAlg alg) (s.key.readBytes 0 s.keylen.toNat) (be64 s.ctr) := by
  rw [State.keyedHash, message_afterEncode]
  rfl

/-- What step 4 writes where it succeeds, ERR aside (41_encode_hmac.md R114). -/
def State.afterHmac (s : State) : State :=
  { s with
    digest := s.digest.writeBytes 0 (padTo 64 s.keyedHash)
    dlen := BitVec.ofNat 7 (digestLen s.ealg) }

theorem hmacStep_of_hashAbsent {s : State} (absent : s.config.hashPresent s.ealg = false) :
    hmacStep s = .failed (s.fail .hash) := if_pos absent

theorem hmacStep_of_keyTooLong {s : State} (present : s.config.hashPresent s.ealg = true)
    (tooLong : s.config.keyMax < s.keylen.toNat) : hmacStep s = .failed (s.fail .keylen) :=
  (if_neg (by simp [present])).trans (if_pos tooLong)

theorem hmacStep_of_keyFits {s : State} (present : s.config.hashPresent s.ealg = true)
    (fits : s.keylen.toNat ≤ s.config.keyMax) : hmacStep s = .done s.afterHmac.succeed :=
  (if_neg (by simp [present])).trans (if_neg (Nat.not_lt.mpr fits))

theorem read_digest_afterHmac (s : State) (i : Nat) :
    s.afterHmac.digest.read i = if i < 64 then s.keyedHash.getD i 0 else s.digest.read i :=
  read_writeDigest s.digest s.ealg s.secret s.message i

theorem toNat_dlen_afterHmac (s : State) : s.afterHmac.dlen.toNat = digestLen s.ealg :=
  Nat.mod_eq_of_lt ((digestLen_le_64 s.ealg).trans_lt (by decide))

theorem digestLen_pos (h : HashAlg) : 0 < digestLen h := by
  cases h <;> decide

/-- The offset of step 5 is the low nibble of the keyed hash's last byte (42_truncate_reduce_format.md R120). -/
theorem toNat_digestOffset_afterHmac (s : State) :
    (digestOffset s.afterHmac.digest s.afterHmac.dlen.toNat).toNat =
      (s.keyedHash.getD (digestLen s.ealg - 1) 0).toNat % 16 := by
  have inDigest : digestLen s.ealg - 1 < 64 := (Nat.sub_lt (digestLen_pos _) one_pos).trans_le (digestLen_le_64 _)
  rw [toNat_digestOffset, toNat_dlen_afterHmac, read_digest_afterHmac, if_pos inDigest]

/-- After step 4 the digest has a length, so only the offset decides whether the window lies inside it. -/
theorem windowOk_afterHmac_iff (s : State) :
    windowOk s.afterHmac.dlen.toNat (digestOffset s.afterHmac.digest s.afterHmac.dlen.toNat).toNat = true ↔
      (s.keyedHash.getD (digestLen s.ealg - 1) 0).toNat % 16 + 4 ≤ digestLen s.ealg := by
  have := digestLen_pos s.ealg
  have := digestLen_le_64 s.ealg
  rw [windowOk_iff, toNat_digestOffset_afterHmac, toNat_dlen_afterHmac]
  omega

/-! ## Step 5: OFFSET and TVAL -/

/-- What step 5 writes where it succeeds, ERR aside (42_truncate_reduce_format.md R120). -/
def State.afterTrunc (s : State) : State :=
  { s with
    offset := digestOffset s.digest s.dlen.toNat
    tval := BitVec.ofNat 31 (truncValue s.digest (digestOffset s.digest s.dlen.toNat).toNat) }

theorem truncStep_of_windowOk {s : State}
    (inside : windowOk s.dlen.toNat (digestOffset s.digest s.dlen.toNat).toNat = true) :
    truncStep s = .done s.afterTrunc.succeed := by
  obtain ⟨misses, -⟩ | ⟨-, h⟩ := truncStep_cases s
  · simp [inside] at misses
  · exact h

theorem truncStep_of_not_windowOk {s : State}
    (misses : ¬ windowOk s.dlen.toNat (digestOffset s.digest s.dlen.toNat).toNat = true) :
    truncStep s = .failed (s.fail .window) := by
  obtain ⟨-, h⟩ | ⟨inside, -⟩ := truncStep_cases s
  · exact h
  · exact absurd inside misses

/-- A window of four bytes with its top bit cleared, as the sum of its bytes (42_truncate_reduce_format.md R122). -/
theorem Memory.memRead_four_mod (m : Memory) (i : Nat) :
    m.memRead i 4 % 2 ^ 31 = (m.read i).toNat % 128 * 2 ^ 24 + (m.read (i + 1)).toNat * 2 ^ 16 +
      (m.read (i + 2)).toNat * 2 ^ 8 + (m.read (i + 3)).toNat := by
  have := (m.read (i + 1)).isLt
  have := (m.read (i + 2)).isLt
  have := (m.read (i + 3)).isLt
  simp only [memRead_eq_sum, Finset.sum_range_succ, Finset.sum_range_zero, Nat.add_zero]
  omega

/-- TVAL after steps 4 and 5, in the bytes of the keyed hash. -/
theorem toNat_tval_afterTrunc_afterHmac {s : State} {off : Nat} (hoff : s.afterHmac.afterTrunc.offset.toNat = off)
    (inside : off + 4 ≤ digestLen s.ealg) :
    s.afterHmac.afterTrunc.tval.toNat =
      (s.keyedHash.getD off 0).toNat % 128 * 2 ^ 24 +
      (s.keyedHash.getD (off + 1) 0).toNat * 2 ^ 16 +
      (s.keyedHash.getD (off + 2) 0).toNat * 2 ^ 8 +
      (s.keyedHash.getD (off + 3) 0).toNat := by
  have inDigest : off + 4 ≤ 64 := inside.trans (digestLen_le_64 s.ealg)
  have byte {i : Nat} (hi : i < off + 4) : s.afterHmac.digest.read i = s.keyedHash.getD i 0 := by
    rw [read_digest_afterHmac, if_pos (hi.trans_le inDigest)]
  calc s.afterHmac.afterTrunc.tval.toNat
      = s.afterHmac.digest.memRead s.afterHmac.afterTrunc.offset.toNat 4 % 2 ^ 31 := toNat_ofNat_truncValue _ _
    _ = s.afterHmac.digest.memRead off 4 % 2 ^ 31 := by rw [hoff]
    _ = _ := by
      rw [Memory.memRead_four_mod, byte (i := off) (by omega), byte (i := off + 1) (by omega),
        byte (i := off + 2) (by omega), byte (i := off + 3) (by omega)]

/-! ## Steps 6 and 7: CODE, PASS and PASSLEN -/

/-- What step 6 writes, ERR aside (42_truncate_reduce_format.md R124). -/
def State.afterReduce (s : State) : State :=
  { s with code := BitVec.ofNat 31 (reduceCode s.tval.toNat s.edig.toNat) }

/-- What step 7 writes where it succeeds, ERR aside (42_truncate_reduce_format.md R127). -/
def State.afterFormat (s : State) : State :=
  { s with
    pass := s.pass.writeBytes 0 (padTo 16 (asciiNumeral s.code.toNat s.edig.toNat))
    passlen := s.edig }

theorem reduceStep_eq_done (s : State) : reduceStep s = .done s.afterReduce.succeed := rfl

/-- The remainder is at most TVAL, so it fits CODE (42_truncate_reduce_format.md R125). -/
theorem toNat_code_afterReduce (s : State) : s.afterReduce.code.toNat = s.tval.toNat % 10 ^ s.edig.toNat :=
  Nat.mod_eq_of_lt ((Nat.mod_le _ _).trans_lt s.tval.isLt)

theorem formatStep_of_codeFits {s : State} (fits : s.code.toNat < 10 ^ s.edig.toNat) :
    formatStep s = .done s.afterFormat.succeed := if_neg (Nat.not_le.mpr fits)

/-- Step 7 cannot fail on a code that step 6 left (42_truncate_reduce_format.md R129). -/
theorem reduceStep_andThen_formatStep (s : State) :
    (reduceStep s).andThen formatStep = .done s.afterReduce.afterFormat.succeed := by
  have fits : s.afterReduce.code.toNat < 10 ^ s.afterReduce.edig.toNat := by
    rw [toNat_code_afterReduce]
    exact Nat.mod_lt _ (by positivity)
  rw [reduceStep_eq_done, andThen_done_succeed formatStep_ignoresErr, formatStep_of_codeFits fits]

theorem toNat_asciiDigit_digitOf (c d i : Nat) : (asciiDigit (digitOf c d i)).toNat = 0x30 + c / 10 ^ (d - 1 - i) % 10 := by
  have digit := Nat.mod_lt (c / 10 ^ (d - 1 - i)) (by decide : 10 > 0)
  exact Nat.mod_eq_of_lt (by rw [digitOf]; omega)

theorem read_pass_afterFormat (s : State) (i : Nat) :
    s.afterFormat.pass.read i =
      if i < 16 then (asciiNumeral s.code.toNat s.edig.toNat).getD i 0 else s.pass.read i :=
  read_writePadded s.pass 16 _ (by rw [length_asciiNumeral]; exact s.edig.isLt.le) i

/-- The characters of the passcode, the zeros after it, and the bytes that are not of PASS (R127, R128). -/
theorem pass_afterFormat (s : State) :
    (∀ i < s.edig.toNat, (s.afterFormat.pass.read i).toNat = 0x30 + s.code.toNat / 10 ^ (s.edig.toNat - 1 - i) % 10) ∧
    (∀ i, s.edig.toNat ≤ i → i < 16 → s.afterFormat.pass.read i = 0x00) ∧
    ∀ i, 16 ≤ i → s.afterFormat.pass.read i = s.pass.read i := by
  refine ⟨fun i hi => ?_, fun i hlo hhi => ?_, fun i hi => ?_⟩ <;> rw [read_pass_afterFormat]
  · rw [if_pos (hi.trans s.edig.isLt), getD_asciiNumeral _ _ _ hi, toNat_asciiDigit_digitOf]
  · rw [if_pos hhi]
    exact List.getD_eq_default _ _ (by rwa [length_asciiNumeral])
  · rw [if_neg (Nat.not_lt.mpr hi)]

/-! ## The whole command -/

theorem encode_gen_and_mask (a : AlgSel) (d : DigSel) : encode (.gen a d) &&& 0xFFFFFF00 = 0x01000000 := by
  have row : wordOfFields 0x01 0 0 0 = 0x01000000 := by decide
  rw [encode_eq_wordOfFields, wordOfFields_and_mask]
  exact row

theorem exec_gen (a : AlgSel) (d : DigSel) (s : State) :
    exec (.gen a d) s = .next (genSteps a.bits d.bits s).state := rfl

/-- Steps 1 to 3 cannot fail, so GEN is what the other steps make of the state they leave. -/
theorem genSteps_eq_hmacStep_andThen (alg dig : Nibble) (s : State) :
    genSteps alg dig s =
      (((hmacStep (s.afterEncode alg dig)).andThen truncStep).andThen reduceStep).andThen formatStep := by
  rw [genSteps, resolveStep_andThen_encodeStep, andThen_done_succeed hmacStep_ignoresErr]

section
variable {a : AlgSel} {d : DigSel} {s t : State} (ht : s.afterEncode a.bits d.bits = t)
include ht

/-- ERR_HASH or ERR_KEYLEN from step 4: the steps after it are not performed. -/
theorem exec_gen_of_hmacStep_failed {u : State} (h : hmacStep t = .failed u) : exec (.gen a d) s = .next u := by
  rw [exec_gen, genSteps_eq_hmacStep_andThen, ht, h]
  rfl

/-- ERR_WINDOW from step 5: what step 4 wrote stays. -/
theorem exec_gen_of_truncStep_failed {u : State} (hHmac : hmacStep t = .done t.afterHmac.succeed)
    (hTrunc : truncStep t.afterHmac = .failed u) : exec (.gen a d) s = .next u := by
  rw [exec_gen, genSteps_eq_hmacStep_andThen, ht, hHmac, andThen_done_succeed truncStep_ignoresErr, hTrunc]
  rfl

/-- Where steps 4 and 5 succeed, GEN does. -/
theorem exec_gen_of_truncStep_done (hHmac : hmacStep t = .done t.afterHmac.succeed)
    (hTrunc : truncStep t.afterHmac = .done t.afterHmac.afterTrunc.succeed) :
    exec (.gen a d) s = .next t.afterHmac.afterTrunc.afterReduce.afterFormat.succeed := by
  rw [exec_gen, genSteps_eq_hmacStep_andThen, ht, hHmac, andThen_done_succeed truncStep_ignoresErr, hTrunc,
    andThen_done_succeed reduceStep_ignoresErr, reduceStep_andThen_formatStep]
  rfl

end

/-- Settles O39, branch by branch: step 4 fails in two ways, step 5 in one, and the steps after it cannot. -/
theorem genRunsTheSevenSteps : Obligations.GenRunsTheSevenSteps := by
  intro a d s
  obtain ⟨named, kept⟩ := read_msg_afterEncode a.bits d.bits s
  refine ⟨encode_gen_and_mask a d, _, named, kept, ?_⟩
  intro h s1 D off
  have hs1 : s.afterEncode a.bits d.bits = s1 := rfl
  have hD : D = s1.keyedHash := (keyedHash_afterEncode a.bits d.bits s).symm
  clear_value D
  subst hD
  refine ⟨fun absent => ⟨_, exec_gen_of_hmacStep_failed hs1 (hmacStep_of_hashAbsent absent), fail_errorEffect s1 .hash⟩,
    fun present tooLong =>
      ⟨_, exec_gen_of_hmacStep_failed hs1 (hmacStep_of_keyTooLong present tooLong), fail_errorEffect s1 .keylen⟩,
    fun present fits => ⟨s1.afterHmac.digest, fun i hi => ?_, fun i hlo hhi => ?_, fun i hi => ?_, ?_⟩⟩
  · rw [read_digest_afterHmac, if_pos (hi.trans_le (digestLen_le_64 h))]
  · rw [read_digest_afterHmac, if_pos hhi]
    exact getD_hmac_of_le hlo _ _
  · rw [read_digest_afterHmac, if_neg (Nat.not_lt.mpr hi)]
  · have hHmac := hmacStep_of_keyFits (s := s1) present fits
    have hWindow := windowOk_afterHmac_iff s1
    refine ⟨fun leaves => ?_, fun inside => ?_⟩
    · have hTrunc := truncStep_of_not_windowOk (mt hWindow.mp (Nat.not_le.mpr leaves))
      exact ⟨_, exec_gen_of_truncStep_failed hs1 hHmac hTrunc, fail_errorEffect s1.afterHmac .window⟩
    · have hTrunc := truncStep_of_windowOk (hWindow.mpr inside)
      have hOffset : s1.afterHmac.afterTrunc.offset.toNat = off := toNat_digestOffset_afterHmac s1
      exact ⟨_, _, _, _, exec_gen_of_truncStep_done hs1 hHmac hTrunc, hOffset,
        toNat_tval_afterTrunc_afterHmac hOffset inside, toNat_code_afterReduce s1.afterHmac.afterTrunc,
        pass_afterFormat s1.afterHmac.afterTrunc.afterReduce⟩

end Sys2Proof.Machine
end

section
/-! PROOFS. A step on a command word, and on one that spells no command (10_state.md R40, 60_exceptions.md R181). -/

namespace Sys2Proof.Machine

@[simp] theorem commandWord_toNat (w : CmdWord) : commandWord w.toNat = w := by simp [commandWord]

theorem step_commandWrite {s : State} {v : Nat} {rest : List Event} (h : s.pending = .hostWrite cmdNumber v :: rest) :
    step s = executeWord (commandWord v) { s with pending := rest } :=
  step_pending_cons s _ rest h

theorem executeWord_of_illegal {w : CmdWord} {why : IllegalReason} (h : decode w = .illegal why) (s : State) :
    executeWord w s = .next (s.fail .illegal) := by
  rw [executeWord, h]

/-- Settles O7: the step executes the word on the state without the event, and an illegal word has only the error effect. -/
theorem stepOnIllegalWordHasOnlyTheErrorEffect : Obligations.StepOnIllegalWordHasOnlyTheErrorEffect := by
  intro s w rest why pending illegal
  refine ⟨({ s with pending := rest } : State).fail .illegal, ?_, fail_errorEffect _ .illegal⟩
  calc step s = executeWord (commandWord w.toNat) { s with pending := rest } := step_commandWrite pending
    _ = executeWord w { s with pending := rest } := by rw [commandWord_toNat]
    _ = .next (State.fail { s with pending := rest } .illegal) := executeWord_of_illegal illegal _

end Sys2Proof.Machine
end

section
/-! PROOFS. The decoder and the encoder are inverse to each other (30_encoding.md R90). -/

namespace Sys2Proof

/-- Settles O1: the fields of the encoded word are the opcode and the operands, which name themselves. -/
theorem decodeOfEncodeIsTheCommand : Obligations.DecodeOfEncodeIsTheCommand := fun _ hi => decode_encode hi

/-- Settles O2: what the decoder answers on the word is a well-formed command with that word as its encoding, or no command. -/
theorem encodeOfDecodeIsTheWord : Obligations.EncodeOfDecodeIsTheWord := by
  intro w i hw
  obtain ⟨j, answer, wf, encoded⟩ | ⟨why, answer, -⟩ := decode_cases w
  · obtain rfl : i = j := by simpa using hw.symm.trans answer
    exact ⟨encoded, wf⟩
  · simp [answer] at hw

/-- Settles O5: each word is the encoding of its command. -/
theorem writtenWordsDecode : Obligations.WrittenWordsDecode :=
  ⟨decode_encode (i := .nop) rfl, decode_encode (i := .gen .sha1 (.count 6)) rfl,
    decode_encode (i := .gen (.unknown 9) (.count 10)) rfl, decode_encode (i := .resolve .md5 .unset) rfl,
    decode_encode (i := .encode) rfl, decode_encode (i := .hmac) rfl, decode_encode (i := .trunc) rfl,
    decode_encode (i := .reduce) rfl, decode_encode (i := .format) rfl, decode_encode (i := .zero) rfl⟩

end Sys2Proof
end

section
/-! PROOFS. Buffers and the keyed hash (20_memory.md R60, 41_encode_hmac.md R112, R113, 48_hash_functions.md R150). -/

namespace Sys2Proof.Machine

/-- Settles O26, by the laws of a write and the extensionality of canonical buffers. -/
theorem canonicalBuffersAreDeterminedByTheirBytes : Obligations.CanonicalBuffersAreDeterminedByTheirBytes :=
  ⟨fun _ m a b hm ha => ⟨Memory.wf_write hm ha b, Memory.read_write m a b⟩, fun _ _ _ => Memory.ext_of_wf⟩

/-- Settles O27: the table of R112 value by value, and the length law. -/
theorem digestsHaveTheirLengths : Obligations.DigestsHaveTheirLengths :=
  ⟨⟨rfl, rfl, rfl⟩, ⟨rfl, rfl, rfl⟩, ⟨rfl, rfl, rfl⟩, ⟨rfl, rfl, rfl⟩, length_hashOf, length_hmac⟩

theorem digestLen_le_blockLen (h : HashAlg) : digestLen h ≤ blockLen h := by
  cases h <;> decide

/-- The key that is padded to a block: the given one, or its hash where it is longer than the block (R150). -/
theorem length_hmacKey_le (h : HashAlg) (key : List Byte) :
    (if blockLen h < key.length then hashOf h key else key).length ≤ blockLen h := by
  split
  case isTrue => exact length_hashOf h key ▸ digestLen_le_blockLen h
  case isFalse fits => exact Nat.not_lt.mp fits

/-- Settles O28: the block is the padded key, which is read byte by byte. -/
theorem hmacIsTheTwoNestedHashes : Obligations.HmacIsTheTwoNestedHashes := by
  intro h key msg
  have byte (i : Nat) : (hmacKeyBlock h key).getD i 0 =
      (if blockLen h < key.length then hashOf h key else key).getD i 0 := getD_padTo _ _ i
  refine ⟨hmacKeyBlock h key, length_padTo _ _ (length_hmacKey_le h key), fun long i => ?_, fun fits i => ?_, rfl⟩
  · rw [byte, if_pos long]
  · rw [byte, if_neg (Nat.not_lt.mpr fits)]

end Sys2Proof.Machine
end

section
/-! PROOFS. RESOLVE and GEN depend on their operands through the resolution functions only (40_resolve.md R100, R103, R104). -/

namespace Sys2Proof.Machine

theorem resolveDigits_ne_zero (d : Nibble) : resolveDigits d ≠ 0 := by
  by_cases hd : d = 0
  · rw [hd, resolveDigits_zero]
    decide
  · rwa [resolveDigits_of_ne_zero hd]

theorem resolveDigits_resolveDigits (d : Nibble) : resolveDigits (resolveDigits d) = resolveDigits d :=
  resolveDigits_of_ne_zero (resolveDigits_ne_zero d)

/-- The number of a hash function is resolved to that function. -/
theorem resolveAlg_hashNumber (h : HashAlg) : resolveAlg (hashNumber h) = h := by
  cases h <;> rfl

/-- Settles O20: the numbers that EALG and EDIG hold resolve to themselves, and ERR is 0 already. -/
theorem resolvingAResolvedPairChangesNothing : Obligations.ResolvingAResolvedPairChangesNothing := by
  intro a a' d d' s
  refine ⟨_, exec_resolve a d s, fun ha hd => ?_⟩
  have alg : resolveAlg a'.bits = resolveAlg a.bits := by rw [ha]; exact resolveAlg_hashNumber _
  have dig : resolveDigits d'.bits = resolveDigits d.bits := by rw [hd]; exact resolveDigits_resolveDigits _
  rw [exec_resolve, alg, dig]
  simp [State.succeed, State.setErr]

theorem exec_gen_congr {a a' : AlgSel} {d d' : DigSel} (alg : resolveAlg a.bits = resolveAlg a'.bits)
    (dig : resolveDigits d.bits = resolveDigits d'.bits) (s : State) : exec (.gen a d) s = exec (.gen a' d') s := by
  rw [exec_gen, exec_gen, genSteps, genSteps, resolveStep, resolveStep, alg, dig]

/-- SHA-1 is the default arm of the resolution (R102). -/
theorem resolveAlg_eq_sha1 {a : Nibble} (ha : a = 0 ∨ a = 1 ∨ 5 ≤ a.toNat) : resolveAlg a = .sha1 := by
  obtain ⟨notSha256, notSha512, notMd5⟩ : a ≠ 2 ∧ a ≠ 3 ∧ a ≠ 4 := by bv_omega
  rw [resolveAlg, if_neg notSha256, if_neg notSha512, if_neg notMd5]

/-- Settles O21: every such selector resolves to SHA-1. -/
theorem unsetOrUnknownAlgorithmIsSha1 : Obligations.UnsetOrUnknownAlgorithmIsSha1 := by
  intro a d s ha
  have alg := resolveAlg_eq_sha1 ha
  exact ⟨by rw [alg]; rfl, exec_gen_congr alg rfl s⟩

/-- Settles O22: the sentinel and the count 6 resolve alike. -/
theorem unsetDigitCountIsSix : Obligations.UnsetDigitCountIsSix :=
  fun _ s => ⟨resolveDigits_zero, rfl, exec_gen_congr rfl rfl s⟩

end Sys2Proof.Machine
end

section
/-! PROOFS. TRUNC, REDUCE and FORMAT: the formula of the window, its errors, and the digits of a code
(42_truncate_reduce_format.md). -/

namespace Sys2Proof.Machine

/-! ## TRUNC (R121 to R123) -/

/-- Bytes combined by shifts and by addition: no two of them share a bit (R122). -/
theorem shiftedBytes_or_eq_add {a b c d : Nat} (hb : b < 256) (hc : c < 256) (hd : d < 256) :
    a <<< 24 ||| b <<< 16 ||| c <<< 8 ||| d = a * 2 ^ 24 + b * 2 ^ 16 + c * 2 ^ 8 + d := by
  rw [Nat.or_assoc, Nat.or_assoc,
    ← Nat.shiftLeft_add_eq_or_of_lt (i := 8) hd,
    ← Nat.shiftLeft_add_eq_or_of_lt (i := 16) (by rw [Nat.shiftLeft_eq]; omega),
    ← Nat.shiftLeft_add_eq_or_of_lt (i := 24) (by simp only [Nat.shiftLeft_eq]; omega)]
  simp only [Nat.shiftLeft_eq, Nat.add_assoc]

/-- Settles O31: the masked window is the sum of its bytes, which is the same by shifts and lies below 2^31. -/
theorem truncationFormula : Obligations.TruncationFormula := by
  intro d off
  have window := truncValue_eq_mod d off
  have bytes := window.trans (d.memRead_four_mod off)
  have mask (n : Nat) : n &&& 0x7F = n % 128 := Nat.and_two_pow_sub_one_eq_mod n 7
  refine ⟨?_, bytes, rfl, ?_⟩
  · rw [bytes, mask, shiftedBytes_or_eq_add (BitVec.isLt _) (BitVec.isLt _) (BitVec.isLt _)]
  · rw [window]
    omega

/-- How TRUNC ends, in terms of the last digest byte: an error exactly where the window leaves the digest. -/
theorem exec_trunc_err (s : State) : ∃ t, exec .trunc s = .next t ∧
    t.err = if 1 ≤ s.dlen.toNat ∧ s.dlen.toNat ≤ 64 ∧ (s.digest.read (s.dlen.toNat - 1)).toNat % 16 + 4 ≤ s.dlen.toNat
      then 0 else 4 := by
  simp only [← windowOk_digestOffset_iff]
  obtain ⟨misses, h⟩ | ⟨fits, h⟩ := truncStep_cases s <;> refine ⟨_, exec_trunc s, ?_⟩
  · rw [h, state_failed, err_fail, if_neg (by simp [misses])]
    rfl
  · rw [h, state_done, err_succeed, if_pos fits]

/-- Settles O33: an offset is at most 15, so its window lies inside 19 bytes, and one at 13 or above leaves 16 bytes. -/
theorem windowErrorAtLength16AndLengths19To64 : Obligations.WindowErrorAtLength16AndLengths19To64 := by
  intro s
  obtain ⟨t, executed, err⟩ := exec_trunc_err s
  refine ⟨t, executed, fun hlo hhi => ?_, fun hlen => ?_⟩
  · rw [err, if_pos (by omega)]
  · have offset : t.err = if (s.digest.read 15).toNat % 16 ≤ 12 then 0 else 4 := by simpa [hlen] using err
    rw [offset]
    split
    case isTrue inside => exact ⟨iff_of_false (by decide) (by omega), iff_of_true rfl inside⟩
    case isFalse leaves => exact ⟨iff_of_true rfl (by omega), iff_of_false (by decide) leaves⟩

/-! ## REDUCE and FORMAT (R124 to R130) -/

theorem exec_reduce (s : State) : exec .reduce s = .next s.afterReduce.succeed := rfl

theorem exec_format (s : State) : exec .format s = .next (formatStep s).state := rfl

theorem formatStep_of_codeTooLong {s : State} (tooLong : 10 ^ s.edig.toNat ≤ s.code.toNat) :
    formatStep s = .failed (s.fail .range) := if_pos tooLong

theorem exec_format_of_codeFits {s : State} (fits : s.code.toNat < 10 ^ s.edig.toNat) :
    exec .format s = .next s.afterFormat.succeed := by
  rw [exec_format, formatStep_of_codeFits fits, state_done]

theorem code_afterReduce_fits (s : State) : s.afterReduce.code.toNat < 10 ^ s.edig.toNat := by
  rw [toNat_code_afterReduce]
  exact Nat.mod_lt _ (by positivity)

/-- Settles O34: CODE is the remainder, and ten digits hold every TVAL. -/
theorem reduceIsTheDecimalRemainder : Obligations.ReduceIsTheDecimalRemainder := by
  refine ⟨decode_encode (i := .reduce) rfl, fun s =>
    ⟨s.afterReduce.code, exec_reduce s, toNat_code_afterReduce s, ?_, code_afterReduce_fits s, fun wide => ?_⟩⟩
  · rw [toNat_code_afterReduce]
    exact Nat.mod_le _ _
  · have tvalFits : s.tval.toNat < 10 ^ s.edig.toNat :=
      calc s.tval.toNat < 2 ^ 31 := s.tval.isLt
        _ ≤ 10 ^ 10 := by decide
        _ ≤ 10 ^ s.edig.toNat := Nat.pow_le_pow_right (by decide) wide
    exact BitVec.eq_of_toNat_eq ((toNat_code_afterReduce s).trans (Nat.mod_eq_of_lt tvalFits))

/-- Settles O35, by whether the code has at most EDIG digits. -/
theorem formatWritesThePaddedNumeral : Obligations.FormatWritesThePaddedNumeral := by
  refine ⟨decode_encode (i := .format) rfl, fun s => ⟨fun tooLong => ?_, fun fits => ?_⟩⟩
  · exact ⟨_, by rw [exec_format, formatStep_of_codeTooLong tooLong, state_failed], fail_errorEffect s .range⟩
  · exact ⟨_, exec_format_of_codeFits fits, pass_afterFormat s⟩

/-- Settles O36: the decimal digits of a number below 10^d are those of its remainder. -/
theorem digitsSpellTheCode : Obligations.DigitsSpellTheCode := by
  refine fun c d => ⟨fun fits => ?_, length_asciiNumeral c d, fun i hi => ⟨rfl, ?_⟩⟩
  · exact (sum_digits_mul_pow 10 d c).trans (Nat.mod_eq_of_lt fits)
  · rw [getD_asciiNumeral c d i hi, toNat_asciiDigit_digitOf, digitOf]

/-- The characters that FORMAT writes are decimal digits (R128). -/
theorem isAsciiDigit_pass_afterFormat (s : State) {i : Nat} (hi : i < s.edig.toNat) :
    IsAsciiDigit (s.afterFormat.pass.read i) := by
  have char := (pass_afterFormat s).1 i hi
  have digit := Nat.mod_lt (s.code.toNat / 10 ^ (s.edig.toNat - 1 - i)) (by decide : 10 > 0)
  rw [IsAsciiDigit]
  omega

/-- The digits that FORMAT writes spell a code that fits them (R128). -/
theorem sum_pass_afterFormat {s : State} (fits : s.code.toNat < 10 ^ s.edig.toNat) :
    ∑ i ∈ Finset.range s.edig.toNat, ((s.afterFormat.pass.read i).toNat - 0x30) * 10 ^ (s.edig.toNat - 1 - i) =
      s.code.toNat := by
  have characters := (pass_afterFormat s).1
  calc _ = ∑ i ∈ Finset.range s.edig.toNat,
          s.code.toNat / 10 ^ (s.edig.toNat - 1 - i) % 10 * 10 ^ (s.edig.toNat - 1 - i) :=
        Finset.sum_congr rfl fun i hi => by rw [characters i (Finset.mem_range.mp hi), Nat.add_sub_cancel_left]
    _ = s.code.toNat := (sum_digits_mul_pow 10 _ _).trans (Nat.mod_eq_of_lt fits)

/-- Settles O37: the code that REDUCE leaves fits EDIG digits, so FORMAT writes its numeral. -/
theorem reduceThenFormatSpellsTheRemainder : Obligations.ReduceThenFormatSpellsTheRemainder := by
  intro s
  have fits := code_afterReduce_fits s
  exact ⟨_, _, exec_reduce s, exec_format_of_codeFits (s := s.afterReduce.succeed) fits, err_succeed _, rfl,
    fun i hi => isAsciiDigit_pass_afterFormat s.afterReduce.succeed hi,
    sum_pass_afterFormat (s := s.afterReduce.succeed) fits, toNat_code_afterReduce s, fits⟩

end Sys2Proof.Machine
end

section
/-! PROOFS. A step on each kind of event (10_state.md R21, R40, 20_memory.md R68, 70_reset_and_hazards.md R200, R201). -/

namespace Sys2Proof.Machine

theorem executeWord_of_command {w : CmdWord} {i : Instr} (h : decode w = .command i) (s : State) :
    executeWord w s = exec i s := by
  rw [executeWord, h]

/-- Settles O6: the step executes the word on the state without the event, and the word spells the command. -/
theorem stepExecutesTheDecodedCommand : Obligations.StepExecutesTheDecodedCommand := by
  intro s w rest i pending command
  rw [step_commandWrite pending, commandWord_toNat, executeWord_of_command command]

theorem commandWord_mod (v : Nat) : commandWord (v % 2 ^ 32) = commandWord v := ofNat_lowBits 32 v

/-- Settles O8: the two values deliver the same word. -/
theorem wideCommandValueExecutesItsLowWord : Obligations.WideCommandValueExecutesItsLowWord := by
  intro s v
  calc step (s.withNextEvent (.hostWrite 0 v))
      = executeWord (commandWord v) s := step_commandWrite (withNextEvent_pending s _)
    _ = executeWord (commandWord (v % 2 ^ 32)) s := by rw [commandWord_mod]
    _ = step (s.withNextEvent (.hostWrite 0 (v % 2 ^ 32))) := (step_commandWrite (withNextEvent_pending s _)).symm

/-- Settles O9, as the empty list is one of the two cases of a step. -/
theorem stepWithoutEventChangesNothing : Obligations.StepWithoutEventChangesNothing := step_pending_nil

theorem step_resetEvent {s : State} {rest : List Event} (h : s.pending = .reset :: rest) :
    step s = .next (State.afterReset { s with pending := rest }) :=
  step_pending_cons s _ rest h

/-- Settles O14: the registers by their values at reset, the buffers because each is empty. -/
theorem resetEventRestoresTheResetState : Obligations.ResetEventRestoresTheResetState := by
  intro s rest pending
  have cleared (i : Nat) := Memory.read_nil i
  exact ⟨_, step_resetEvent pending, rfl, rfl, rfl, rfl, rfl, rfl, rfl, rfl, rfl, rfl, rfl,
    fun i => ⟨cleared i, cleared i, cleared i, cleared i⟩⟩

/-- Settles O15: both leave what `State.afterReset` says, and ZERO puts CTRL back. -/
theorem zeroAndResetDifferInCtrlOnly : Obligations.ZeroAndResetDifferInCtrlOnly := fun s =>
  ⟨_, _, exec_zero s, step_resetEvent (withNextEvent_pending s .reset), rfl, rfl, rfl⟩

end Sys2Proof.Machine
end

section
/-! PROOFS. How each command ends (60_exceptions.md R180, R183, 43_generate_and_system.md R140, R141). -/

namespace Sys2Proof.Machine

/-! ## The commands as steps -/

/-- The meaning of a command as a step that completes or fails. -/
def commandStep : Instr → State → Ended
  | .nop, s => .done s
  | .gen alg dig, s => genSteps alg.bits dig.bits s
  | .resolve alg dig, s => resolveStep alg.bits dig.bits s
  | .encode, s => encodeStep s
  | .hmac, s => hmacStep s
  | .trunc, s => truncStep s
  | .reduce, s => reduceStep s
  | .format, s => formatStep s
  | .zero, s => .done { s.afterReset with ctrl := s.ctrl }

theorem exec_eq_commandStep (i : Instr) (s : State) : exec i s = .next (commandStep i s).state := by
  cases i <;> rfl

theorem commandStep_sameInputs {i : Instr} (hi : i ≠ .zero) (s : State) : s.SameInputs (commandStep i s).state := by
  obtain ⟨t, executed, same⟩ := exec_sameInputs hi s
  rw [exec_eq_commandStep] at executed
  injection executed with left
  rwa [left]

/-! ## The ends of GEN -/

/-- GEN ends in one of four ways, decided by the state that steps 1 to 3 leave: with one of the two errors of step 4, with the
error of step 5, or with a passcode (R140). -/
theorem genSteps_eq_ite {alg dig : Nibble} {s t : State} (ht : s.afterEncode alg dig = t) :
    genSteps alg dig s =
      if t.config.hashPresent t.ealg = false then .failed (t.fail .hash)
      else if t.config.keyMax < t.keylen.toNat then .failed (t.fail .keylen)
      else if digestLen t.ealg < (t.keyedHash.getD (digestLen t.ealg - 1) 0).toNat % 16 + 4 then
        .failed (t.afterHmac.fail .window)
      else .done t.afterHmac.afterTrunc.afterReduce.afterFormat.succeed := by
  rw [genSteps_eq_hmacStep_andThen, ht]
  split_ifs with absent tooLong leaves
  · rw [hmacStep_of_hashAbsent absent]
    rfl
  · rw [hmacStep_of_keyTooLong (by simpa using absent) tooLong]
    rfl
  all_goals
    have window := windowOk_afterHmac_iff t
    rw [hmacStep_of_keyFits (by simpa using absent) (Nat.not_lt.mp tooLong), andThen_done_succeed truncStep_ignoresErr]
  · rw [truncStep_of_not_windowOk (mt window.mp (Nat.not_le.mpr leaves))]
    rfl
  · rw [truncStep_of_windowOk (window.mpr (Nat.not_lt.mp leaves)), andThen_done_succeed reduceStep_ignoresErr,
      reduceStep_andThen_formatStep]

/-! ## Success or the error effect -/

/-- A step from a state with the reserved STATUS bits of `s` ended in success, or in the error effect of one of the errors
`raised`, and it kept those bits. -/
inductive EndsWith (raised : List ErrCode) (s : State) : Ended → Prop where
  | done (u : State) (reserved : u.status.extractLsb' 4 28 = s.status.extractLsb' 4 28) :
      EndsWith raised s (.done u.succeed)
  | failed (u : State) (e : ErrCode) (mem : e ∈ raised)
      (reserved : u.status.extractLsb' 4 28 = s.status.extractLsb' 4 28) : EndsWith raised s (.failed (u.fail e))

/-- The errors that the table of 60_exceptions.md R180 allows a command. -/
def raisedBy : Instr → List ErrCode
  | .gen _ _ => [.hash, .keylen, .window]
  | .hmac => [.hash, .keylen]
  | .trunc => [.window]
  | .format => [.range]
  | .nop | .resolve _ _ | .encode | .reduce | .zero => []

theorem genSteps_endsWith (alg dig : Nibble) (s : State) : EndsWith [.hash, .keylen, .window] s (genSteps alg dig s) := by
  rw [genSteps_eq_ite rfl]
  split_ifs
  · exact .failed _ .hash (by simp) rfl
  · exact .failed _ .keylen (by simp) rfl
  · exact .failed _ .window (by simp) rfl
  · exact .done _ rfl

theorem hmacStep_endsWith (s : State) : EndsWith [.hash, .keylen] s (hmacStep s) := by
  obtain ⟨-, h⟩ | ⟨-, -, h⟩ | ⟨-, -, h⟩ := hmacStep_cases s <;> rw [h]
  · exact .failed s .hash (by simp) rfl
  · exact .failed s .keylen (by simp) rfl
  · exact .done _ rfl

theorem truncStep_endsWith (s : State) : EndsWith [.window] s (truncStep s) := by
  obtain ⟨-, h⟩ | ⟨-, h⟩ := truncStep_cases s <;> rw [h]
  · exact .failed s .window (by simp) rfl
  · exact .done _ rfl

theorem formatStep_endsWith (s : State) : EndsWith [.range] s (formatStep s) := by
  obtain ⟨-, h⟩ | ⟨-, h⟩ := formatStep_cases s <;> rw [h]
  · exact .failed s .range (by simp) rfl
  · exact .done _ rfl

/-- Every command that computes ends in success or with an error of its own. -/
theorem commandStep_endsWith {i : Instr} (notNop : i ≠ .nop) (notZero : i ≠ .zero) (s : State) :
    EndsWith (raisedBy i) s (commandStep i s) := by
  cases i with
  | nop => exact absurd rfl notNop
  | gen alg dig => exact genSteps_endsWith alg.bits dig.bits s
  | resolve alg dig => exact .done _ rfl
  | encode => exact .done _ rfl
  | hmac => exact hmacStep_endsWith s
  | trunc => exact truncStep_endsWith s
  | reduce => exact .done _ rfl
  | format => exact formatStep_endsWith s
  | zero => exact absurd rfl notZero

theorem EndsWith.reserved_kept {raised : List ErrCode} {s : State} {r : Ended} (h : EndsWith raised s r) :
    r.state.status.extractLsb' 4 28 = s.status.extractLsb' 4 28 := by
  cases h with
  | done u reserved => exact (reserved_of_withErr u.status 0).trans reserved
  | failed u e mem reserved => exact (reserved_of_withErr u.status e.number).trans reserved

theorem EndsWith.err_cases {raised : List ErrCode} {s : State} {r : Ended} (h : EndsWith raised s r) :
    r.state.err = 0 ∨ ∃ e ∈ raised, r.state.err = e.number := by
  cases h with
  | done u => exact .inl (err_succeed u)
  | failed u e mem => exact .inr ⟨e, mem, err_fail u e⟩

/-- What PASSLEN and PASS hold once an error was taken (60_exceptions.md R183). -/
theorem fail_noPasscode (s : State) (e : ErrCode) : (s.fail e).passlen = 0 ∧ ∀ i < 16, (s.fail e).pass.read i = 0x00 :=
  ⟨rfl, fun i hi => by rw [fail_pass, read_clearedPass, if_pos hi]⟩

theorem EndsWith.noPasscode {raised : List ErrCode} {s : State} {r : Ended} (h : EndsWith raised s r)
    (error : r.state.err ≠ 0) : r.state.passlen = 0 ∧ ∀ i < 16, r.state.pass.read i = 0x00 := by
  cases h with
  | done u => exact absurd (err_succeed u) error
  | failed u e => exact fail_noPasscode u e

theorem commandStep_reserved {i : Instr} (hi : i ≠ .zero) (s : State) :
    (commandStep i s).state.status.extractLsb' 4 28 = s.status.extractLsb' 4 28 := by
  by_cases nop : i = .nop
  · subst nop; rfl
  · exact (commandStep_endsWith nop hi s).reserved_kept

/-- Settles O45, command by command: the errors each ends with, as numbers. -/
theorem commandsRaiseOnlyTheirErrors : Obligations.CommandsRaiseOnlyTheirErrors := by
  refine ⟨fun i s => ⟨_, exec_eq_commandStep i s, fun hi => commandStep_reserved hi s, ?_⟩, rfl, rfl, rfl, rfl, rfl⟩
  have ends (hNop : i ≠ .nop) (hZero : i ≠ .zero) := (commandStep_endsWith hNop hZero s).err_cases
  cases i with
  | nop => rfl
  | zero => rfl
  | gen | resolve | encode | hmac | trunc | reduce | format =>
    simpa [raisedBy, ErrCode.number] using ends (by simp) (by simp)

/-- Settles O46: an error is an illegal word's or the end of a command that computes; ZERO leaves none. -/
theorem anErrorLeavesNoPasscode : Obligations.AnErrorLeavesNoPasscode := by
  intro w s notNop
  obtain ⟨i, command, executed⟩ | ⟨why, -, executed⟩ := executeWord_cases w s
  · rw [exec_eq_commandStep] at executed
    refine ⟨_, executed, fun error => ?_⟩
    by_cases zero : i = .zero
    · subst zero; exact absurd rfl error
    · exact (commandStep_endsWith (fun nop => notNop (nop ▸ command)) zero s).noPasscode error
  · exact ⟨_, executed, fun _ => fail_noPasscode s .illegal⟩

/-! ## GEN as the six step commands, stopped at the first error (R141) -/

theorem number_ne_zero (e : ErrCode) : e.number ≠ 0 := by
  cases e <;> decide

/-- A command in front of others: they go on from where it completes, and not after an error. -/
theorem execUntilError_cons {i : Instr} (notNop : i ≠ .nop) (notZero : i ≠ .zero) {rest : List Instr} {g : State → Ended}
    (exec_rest : ∀ s, execUntilError rest s = .next (g s).state) (s : State) :
    execUntilError (i :: rest) s = .next ((commandStep i s).andThen g).state := by
  rw [execUntilError, exec_eq_commandStep]
  generalize ended : commandStep i s = r
  cases ended ▸ commandStep_endsWith notNop notZero s with
  | done u => simp only [state_done, err_succeed, if_true, exec_rest, andThen_done]
  | failed u e => simp only [state_failed, err_fail, number_ne_zero, if_false, andThen_failed]

theorem andThen_assoc (r : Ended) (f g : State → Ended) :
    (r.andThen f).andThen g = r.andThen fun s => (f s).andThen g := by
  cases r <;> rfl

theorem andThen_doneAll (r : Ended) : r.andThen .done = r := by
  cases r <;> rfl

/-- Settles O38: one command in front of the others six times, and the steps of GEN bracketed to the right. -/
theorem genEqualsTheStepCommands : Obligations.GenEqualsTheStepCommands := by
  intro a d s
  have finished : ∀ t, execUntilError [] t = .next (Ended.done t).state := fun _ => rfl
  have format := execUntilError_cons (i := .format) (by simp) (by simp) finished
  have reduce := execUntilError_cons (i := .reduce) (by simp) (by simp) format
  have trunc := execUntilError_cons (i := .trunc) (by simp) (by simp) reduce
  have hmac := execUntilError_cons (i := .hmac) (by simp) (by simp) trunc
  have encode := execUntilError_cons (i := .encode) (by simp) (by simp) hmac
  rw [execUntilError_cons (i := .resolve a d) (by simp) (by simp) encode, exec_gen, genSteps]
  simp only [andThen_assoc, andThen_doneAll]
  rfl

end Sys2Proof.Machine
end

section
/-! PROOFS. Every step serves one event and answers a next state, and every step keeps the invariant (10_state.md R58,
20_memory.md R65, R68, 60_exceptions.md R184). -/

namespace Sys2Proof.Machine

/-! ## What serving an event does to the model's own fields -/

/-- The values that an event hands the host: one where it is a read, none otherwise (10_state.md R21). -/
def State.valuesRead (s : State) : Event → List Nat
  | .hostRead n => [s.hostRead n]
  | .hostReadByte b i => [s.hostReadByte b i]
  | .hostWrite _ _ | .hostWriteByte _ _ _ | .reset => []

/-- The parameters and the pending events of `t` are those of `s`, and its replies are those of `s` and then `values`. -/
structure State.Replied (s t : State) (values : List Nat) : Prop where
  config : t.config = s.config
  pending : t.pending = s.pending
  replies : t.replies = s.replies ++ values

theorem commandStep_replied (i : Instr) (s : State) : s.Replied (commandStep i s).state [] := by
  by_cases zero : i = .zero
  · subst zero
    exact ⟨rfl, rfl, (List.append_nil _).symm⟩
  · have same := commandStep_sameInputs zero s
    exact ⟨same.config, same.pending, same.replies.trans (List.append_nil _).symm⟩

theorem executeWord_replied (w : CmdWord) (s : State) : ∃ t, executeWord w s = .next t ∧ s.Replied t [] := by
  obtain ⟨i, -, executed⟩ | ⟨-, -, executed⟩ := executeWord_cases w s
  · exact ⟨_, executed.trans (exec_eq_commandStep i s), commandStep_replied i s⟩
  · exact ⟨_, executed, rfl, rfl, (List.append_nil _).symm⟩

theorem writeReg_replied (s : State) (r : Reg) (v : Nat) : s.Replied (s.writeReg r v) [] := by
  cases r <;> exact ⟨rfl, rfl, (List.append_nil _).symm⟩

theorem hostWriteByte_cases (s : State) (b i : Nat) (v : Byte) :
    (∃ buf, Buf.ofNumber b = some buf ∧ i < bufSize s.config buf ∧ s.hostWriteByte b i v = s.writeBufByte buf i v) ∨
    s.hostWriteByte b i v = s := by
  unfold State.hostWriteByte
  cases Buf.ofNumber b with
  | none => exact .inr rfl
  | some buf =>
    by_cases hi : i < bufSize s.config buf
    · exact .inl ⟨buf, rfl, hi, if_pos hi⟩
    · exact .inr (if_neg hi)

theorem writeBufByte_replied (s : State) (b : Buf) (i : Nat) (v : Byte) : s.Replied (s.writeBufByte b i v) [] := by
  cases b <;> exact ⟨rfl, rfl, (List.append_nil _).symm⟩

theorem hostWriteByte_replied (s : State) (b i : Nat) (v : Byte) : s.Replied (s.hostWriteByte b i v) [] := by
  obtain ⟨buf, -, -, h⟩ | h := hostWriteByte_cases s b i v <;> rw [h]
  · exact writeBufByte_replied s buf i v
  · exact ⟨rfl, rfl, (List.append_nil _).symm⟩

/-- Every event is served completely, and only a read hands the host a value (20_memory.md R65). -/
theorem serve_replied (e : Event) (s : State) : ∃ t, serve e s = .next t ∧ s.Replied t (s.valuesRead e) := by
  obtain ⟨v, rfl, h⟩ | ⟨n, r, v, rfl, -, -, h⟩ | ⟨n, v, rfl, -, h⟩ | ⟨n, rfl, h⟩ | ⟨b, i, v, rfl, h⟩ | ⟨b, i, rfl, h⟩ |
    ⟨rfl, h⟩ := serve_cases e s <;> rw [h]
  · exact executeWord_replied _ s
  · exact ⟨_, rfl, writeReg_replied s r v⟩
  · exact ⟨_, rfl, rfl, rfl, (List.append_nil _).symm⟩
  · exact ⟨_, rfl, rfl, rfl, rfl⟩
  · exact ⟨_, rfl, hostWriteByte_replied s b i v⟩
  · exact ⟨_, rfl, rfl, rfl, rfl⟩
  · exact ⟨_, rfl, rfl, rfl, (List.append_nil _).symm⟩

/-- Settles O11: without an event nothing changes; with one, by the kind of the event. -/
theorem stepServesExactlyOneEvent : Obligations.StepServesExactlyOneEvent := by
  intro s
  cases pending : s.pending with
  | nil => exact ⟨s, step_pending_nil s pending, pending, rfl, rfl⟩
  | cons e rest =>
    obtain ⟨t, served, replied⟩ := serve_replied e { s with pending := rest }
    refine ⟨t, (step_pending_cons s e rest pending).trans served, replied.pending, replied.config, ?_⟩
    have replies := replied.replies
    cases e with
    | hostRead | hostReadByte => exact ⟨_, replies⟩
    | hostWrite | hostWriteByte | reset => exact replies.trans (List.append_nil _)

/-- Settles O10: serving any event, a step answers a next state. -/
theorem everyStepAnswersANextState : Obligations.EveryStepAnswersANextState := fun s =>
  have ⟨t, stepped, _⟩ := stepServesExactlyOneEvent s
  ⟨t, stepped⟩

/-! ## The invariant, operation by operation -/

theorem passOk_of_noPasscode {s : State} (length : s.passlen = 0) (cleared : ∀ i < 16, s.pass.read i = 0x00) :
    s.PassOk := fun i hi => ⟨by simp [length], fun _ => cleared i hi⟩

namespace State.Inv
variable {s : State} (h : s.Inv)
include h

/-- The invariant says nothing about the host's events and replies. -/
theorem withHostSide (es : List Event) (vs : List Nat) : Inv { s with pending := es, replies := vs } :=
  { h with edigPos := h.edigPos }

theorem succeed : s.succeed.Inv :=
  { h with
    errLegal := by rw [err_succeed]; decide
    statusReserved := (reserved_of_withErr _ _).trans h.statusReserved
    errorNoPasscode := fun error => absurd (err_succeed s) error }

/-- Taking an error leaves no passcode, so the cleared PASS is as it should be (60_exceptions.md R183). -/
theorem fail (e : ErrCode) : (s.fail e).Inv :=
  { h with
    passOk := passOk_of_noPasscode (fail_noPasscode s e).1 (fail_noPasscode s e).2
    errLegal := by rw [err_fail]; cases e <;> decide
    statusReserved := (reserved_of_withErr _ _).trans h.statusReserved
    errorNoPasscode := fun _ => rfl
    passWf := by rw [fail_pass]; exact wf_clearedPass h.passWf }

theorem resolved (alg dig : Nibble) : Inv { s with edig := resolveDigits dig, ealg := resolveAlg alg } :=
  { h with edigPos := Nat.one_le_iff_ne_zero.mpr fun zero => resolveDigits_ne_zero dig (BitVec.eq_of_toNat_eq zero) }

theorem encoded : Inv { s with msg := s.msg.memWrite 0 8 s.ctr.toNat } :=
  { h with msgWf := Memory.wf_memWrite h.msgWf (by decide) _ }

theorem afterHmac : s.afterHmac.Inv :=
  { h with
    digestWf := Memory.wf_writeBytes _ h.digestWf (by
      rw [length_padTo 64 _ (length_hmac s.ealg s.secret s.message ▸ digestLen_le_64 s.ealg)]) }

theorem afterTrunc : s.afterTrunc.Inv := { h with edigPos := h.edigPos }

theorem afterReduce : s.afterReduce.Inv := { h with edigPos := h.edigPos }

/-- The numeral fills PASSLEN bytes of PASS and zeros the rest (10_state.md R53); ERR becomes 0 with it. -/
theorem afterFormat_succeed : s.afterFormat.succeed.Inv :=
  { h.succeed with
    passOk := fun i hi => ⟨fun character => isAsciiDigit_pass_afterFormat s character,
      fun rest => (pass_afterFormat s).2.1 i rest hi⟩
    errorNoPasscode := fun error => absurd (err_succeed s.afterFormat) error
    passWf := Memory.wf_writeBytes _ h.passWf (by
      rw [length_padTo 16 _ (by rw [length_asciiNumeral]; exact s.edig.isLt.le)]) }

theorem writeReg (r : Reg) (v : Nat) : (s.writeReg r v).Inv := by
  cases r with
  | ctrl =>
    have stored := ctrlOfWrite_eq s.config.diagPresent v
    exact { h with
      ctrlReserved := by
        change (ctrlOfWrite s.config.diagPresent v).extractLsb' 1 31 = 0
        rw [stored]
        split <;> decide
      diagPath := by
        change (ctrlOfWrite s.config.diagPresent v).getLsbD 0 = true → s.config.diagPresent = true
        rw [stored]
        split
        case isTrue path => exact fun _ => path.1
        case isFalse => simp }
  | keylen | ctr | dlen | tval => exact { h with edigPos := h.edigPos }
  | cmd | status | ealg | edig | offset | code | passlen => exact h

theorem writeBufByte {b : Buf} {i : Nat} (hi : i < bufSize s.config b) (v : Byte) : (s.writeBufByte b i v).Inv := by
  cases b with
  | key => exact { h with keyWf := Memory.wf_write h.keyWf hi v }
  | msg => exact { h with msgWf := Memory.wf_write h.msgWf hi v }
  | digest => exact { h with digestWf := Memory.wf_write h.digestWf hi v }
  | pass => exact h

theorem hostWriteByte (b i : Nat) (v : Byte) : (s.hostWriteByte b i v).Inv := by
  obtain ⟨buf, -, hi, stored⟩ | ignored := hostWriteByte_cases s b i v
  · exact stored ▸ h.writeBufByte hi v
  · exact ignored.symm ▸ h

end State.Inv

/-- The reset values meet the invariant for every legal choice of the parameters. -/
theorem inv_afterReset {s : State} (legal : s.config.Legal) : s.afterReset.Inv where
  edigPos := (by decide : 1 ≤ State.reset.edig.toNat)
  passOk := passOk_of_noPasscode rfl fun i _ => Memory.read_nil i
  errLegal := (by decide : State.reset.err.toNat ≤ 5)
  statusReserved := (by decide : State.reset.status.extractLsb' 4 28 = 0)
  errorNoPasscode _ := rfl
  ctrlReserved := (by decide : State.reset.ctrl.extractLsb' 1 31 = 0)
  diagPath diag := absurd diag (by decide : ¬ State.reset.ctrl.getLsbD 0 = true)
  keyWf := Memory.wf_nil _
  msgWf := Memory.wf_nil 8
  digestWf := Memory.wf_nil 64
  passWf := Memory.wf_nil 16
  configLegal := legal

/-- Settles O47: reset is the event Reset on an engine with the default parameters, which are legal. -/
theorem resetMeetsTheInvariant : Obligations.ResetMeetsTheInvariant :=
  inv_afterReset (s := State.reset) (by decide)

/-! ## The invariant, command by command -/

/-- A step that keeps the invariant, however it ends. -/
def KeepsInv (f : State → Ended) : Prop := ∀ s : State, s.Inv → (f s).state.Inv

theorem KeepsInv.andThen {f g : State → Ended} (hf : KeepsInv f) (hg : KeepsInv g) :
    KeepsInv fun s => (f s).andThen g := by
  intro s h
  have kept := hf s h
  beta_reduce
  obtain ⟨t, ended, goesOn⟩ | ⟨t, ended, stops⟩ := andThen_cases (f s) g <;> rw [ended] at kept
  · exact goesOn ▸ hg t kept
  · exact stops ▸ kept

theorem resolveStep_keepsInv (alg dig : Nibble) : KeepsInv (resolveStep alg dig) := fun _ h => (h.resolved alg dig).succeed

theorem encodeStep_keepsInv : KeepsInv encodeStep := fun _ h => h.encoded.succeed

theorem hmacStep_keepsInv : KeepsInv hmacStep := by
  intro s h
  obtain ⟨-, ended⟩ | ⟨-, -, ended⟩ | ⟨-, -, ended⟩ := hmacStep_cases s <;> rw [ended]
  · exact h.fail .hash
  · exact h.fail .keylen
  · exact h.afterHmac.succeed

theorem truncStep_keepsInv : KeepsInv truncStep := by
  intro s h
  obtain ⟨-, ended⟩ | ⟨-, ended⟩ := truncStep_cases s <;> rw [ended]
  · exact h.fail .window
  · exact h.afterTrunc.succeed

theorem reduceStep_keepsInv : KeepsInv reduceStep := fun _ h => h.afterReduce.succeed

theorem formatStep_keepsInv : KeepsInv formatStep := by
  intro s h
  obtain ⟨-, ended⟩ | ⟨-, ended⟩ := formatStep_cases s <;> rw [ended]
  · exact h.fail .range
  · exact h.afterFormat_succeed

theorem genSteps_keepsInv (alg dig : Nibble) : KeepsInv (genSteps alg dig) := by
  have encode := (resolveStep_keepsInv alg dig).andThen encodeStep_keepsInv
  have trunc := (encode.andThen hmacStep_keepsInv).andThen truncStep_keepsInv
  exact (trunc.andThen reduceStep_keepsInv).andThen formatStep_keepsInv

theorem commandStep_keepsInv (i : Instr) : KeepsInv (commandStep i) := by
  cases i with
  | nop => exact fun _ h => h
  | gen alg dig => exact genSteps_keepsInv alg.bits dig.bits
  | resolve alg dig => exact resolveStep_keepsInv alg.bits dig.bits
  | encode => exact encodeStep_keepsInv
  | hmac => exact hmacStep_keepsInv
  | trunc => exact truncStep_keepsInv
  | reduce => exact reduceStep_keepsInv
  | format => exact formatStep_keepsInv
  | zero => exact fun _ h =>
      { inv_afterReset h.configLegal with ctrlReserved := h.ctrlReserved, diagPath := h.diagPath }

/-! ## The invariant, event by event and along a run -/

theorem executeWord_keepsInv (w : CmdWord) {s : State} (h : s.Inv) : ∃ t, executeWord w s = .next t ∧ t.Inv := by
  obtain ⟨i, -, executed⟩ | ⟨-, -, executed⟩ := executeWord_cases w s
  · exact ⟨_, executed.trans (exec_eq_commandStep i s), commandStep_keepsInv i s h⟩
  · exact ⟨_, executed, h.fail .illegal⟩

theorem serve_keepsInv (e : Event) {s : State} (h : s.Inv) : ∃ t, serve e s = .next t ∧ t.Inv := by
  obtain ⟨v, -, served⟩ | ⟨n, r, v, -, -, -, served⟩ | ⟨n, v, -, -, served⟩ | ⟨n, -, served⟩ | ⟨b, i, v, -, served⟩ |
    ⟨b, i, -, served⟩ | ⟨-, served⟩ := serve_cases e s <;> rw [served]
  · exact executeWord_keepsInv _ h
  · exact ⟨_, rfl, h.writeReg r v⟩
  · exact ⟨_, rfl, h⟩
  · exact ⟨_, rfl, h.withHostSide _ _⟩
  · exact ⟨_, rfl, h.hostWriteByte b i v⟩
  · exact ⟨_, rfl, h.withHostSide _ _⟩
  · exact ⟨_, rfl, inv_afterReset h.configLegal⟩

/-- Settles O48: a step serves the oldest event, and serving any event keeps the invariant. -/
theorem everyStepKeepsTheInvariant : Obligations.EveryStepKeepsTheInvariant := by
  intro s h
  cases pending : s.pending with
  | nil => exact ⟨s, step_pending_nil s pending, h⟩
  | cons e rest =>
    rw [step_pending_cons s e rest pending]
    exact serve_keepsInv e (h.withHostSide rest s.replies)

theorem run_succ_of_step (M : Host.Core) {s t : M.State} (h : M.step s = .next t) (n : Nat) :
    M.run (n + 1) s = M.run n t := by
  rw [Host.Core.run, h]

theorem run_succ {s t : State} (h : step s = .next t) (n : Nat) : core.run (n + 1) s = core.run n t :=
  run_succ_of_step core h n

/-- Runs of any length keep the invariant. -/
theorem run_keepsInv (n : Nat) {s : State} (h : s.Inv) : ∃ t, core.run n s = .next t ∧ t.Inv := by
  induction n generalizing s with
  | zero => exact ⟨s, rfl, h⟩
  | succ n ih =>
    obtain ⟨t, stepped, kept⟩ := everyStepKeepsTheInvariant s h
    rw [run_succ stepped]
    exact ih kept

theorem hashNumber_bounds (h : HashAlg) : 1 ≤ (hashNumber h).toNat ∧ (hashNumber h).toNat ≤ 4 := by
  cases h <;> decide

/-- Without reserved bits STATUS is its field ERR (10_state.md R58 (e)). -/
theorem status_div_of_reserved {st : BitVec 32} (h : st.extractLsb' 4 28 = 0) : st.toNat / 16 = 0 := by
  have fits := st.isLt
  have value : st.toNat >>> 4 % 2 ^ 28 = 0 := (BitVec.extractLsb'_toNat 4 28 st).symm.trans (congrArg BitVec.toNat h)
  rw [Nat.shiftRight_eq_div_pow] at value
  omega

/-- Settles O49: the invariant holds along the run, and the types of the registers give the other bounds. -/
theorem reachableStatesObeyTheSpecsInvariants : Obligations.ReachableStatesObeyTheSpecsInvariants := by
  intro c events n legal
  have start : State.Inv { State.reset with config := c, pending := events } :=
    inv_afterReset (s := { State.reset with config := c, pending := events }) legal
  obtain ⟨t, run, h⟩ := run_keepsInv n start
  exact ⟨t, run, hashNumber_bounds t.ealg, ⟨h.edigPos, Nat.le_of_lt_succ t.edig.isLt⟩, ⟨t.tval.isLt, t.code.isLt⟩,
    ⟨Nat.le_of_lt_succ t.passlen.isLt, fun i hi => (h.passOk i (hi.trans t.passlen.isLt)).1 hi,
      fun i rest hi => (h.passOk i hi).2 rest⟩,
    ⟨h.errLegal, status_div_of_reserved h.statusReserved⟩, h.errorNoPasscode⟩

end Sys2Proof.Machine
end

section
/-! PROOFS. What the commands do not depend on: CTRL, the bytes of KEY past KEYLEN, the events still to serve, the error of an
earlier command (10_state.md sections 4 and 5, 20_memory.md R68). -/

namespace Sys2Proof.Machine

/-! ## CTRL, KEY past KEYLEN, the pending events -/

/-- The state with CTRL, KEY and the pending events of another: what no command reads, but for the secret in KEY. -/
def State.withUnread (s u : State) : State := { s with ctrl := u.ctrl, key := u.key, pending := u.pending }

/-- The same change to the state that a step left. -/
def Ended.withUnread (r : Ended) (u : State) : Ended :=
  match r with
  | .done s => .done (s.withUnread u)
  | .failed s => .failed (s.withUnread u)

theorem state_withUnread (r : Ended) (u : State) : (r.withUnread u).state = r.state.withUnread u := by
  cases r <;> rfl

theorem fail_withUnread (s u : State) (e : ErrCode) : (s.withUnread u).fail e = (s.fail e).withUnread u := by
  simp only [State.fail, State.setErr, State.withUnread]

theorem succeed_withUnread (s u : State) : (s.withUnread u).succeed = s.succeed.withUnread u := rfl

theorem done_withUnread (s u : State) : (Ended.done s).withUnread u = .done (s.withUnread u) := rfl

theorem failed_withUnread (s u : State) : (Ended.failed s).withUnread u = .failed (s.withUnread u) := rfl

theorem andThen_withUnread {f : State → Ended} {u : State} (hf : ∀ s : State, f (s.withUnread u) = (f s).withUnread u)
    (r : Ended) : (r.withUnread u).andThen f = (r.andThen f).withUnread u := by
  cases r with
  | done s => exact hf s
  | failed s => rfl

theorem afterHmac_withUnread {s u : State} (secret : (s.withUnread u).secret = s.secret) :
    (s.withUnread u).afterHmac = s.afterHmac.withUnread u := by
  have sameHash : (s.withUnread u).keyedHash = s.keyedHash := by
    rw [State.keyedHash, State.keyedHash, secret]
    rfl
  rw [State.afterHmac, State.afterHmac, sameHash]
  rfl

/-- Step 4 reads the secret, and nothing else of KEY. -/
theorem hmacStep_withUnread {s u : State} (secret : (s.withUnread u).secret = s.secret) :
    hmacStep (s.withUnread u) = (hmacStep s).withUnread u := by
  obtain ⟨absent, -⟩ | ⟨present, tooLong, -⟩ | ⟨present, fits, -⟩ := hmacStep_cases s
  · rw [hmacStep_of_hashAbsent absent, failed_withUnread, ← fail_withUnread]
    exact hmacStep_of_hashAbsent absent
  · rw [hmacStep_of_keyTooLong present tooLong, failed_withUnread, ← fail_withUnread]
    exact hmacStep_of_keyTooLong present tooLong
  · rw [hmacStep_of_keyFits present fits, done_withUnread, ← succeed_withUnread, ← afterHmac_withUnread secret]
    exact hmacStep_of_keyFits present fits

theorem truncStep_withUnread (u s : State) : truncStep (s.withUnread u) = (truncStep s).withUnread u := by
  by_cases inside : windowOk s.dlen.toNat (digestOffset s.digest s.dlen.toNat).toNat = true
  · rw [truncStep_of_windowOk inside, done_withUnread, ← succeed_withUnread]
    exact truncStep_of_windowOk inside
  · rw [truncStep_of_not_windowOk inside, failed_withUnread, ← fail_withUnread]
    exact truncStep_of_not_windowOk inside

theorem formatStep_withUnread (u s : State) : formatStep (s.withUnread u) = (formatStep s).withUnread u := by
  obtain ⟨tooLong, -⟩ | ⟨fits, -⟩ := formatStep_cases s
  · rw [formatStep_of_codeTooLong tooLong, failed_withUnread, ← fail_withUnread]
    exact formatStep_of_codeTooLong tooLong
  · rw [formatStep_of_codeFits fits, done_withUnread, ← succeed_withUnread]
    exact formatStep_of_codeFits fits

theorem genSteps_withUnread {s u : State} (secret : (s.withUnread u).secret = s.secret) (alg dig : Nibble) :
    genSteps alg dig (s.withUnread u) = (genSteps alg dig s).withUnread u := by
  have encoded : (s.withUnread u).afterEncode alg dig = (s.afterEncode alg dig).withUnread u := rfl
  rw [genSteps_eq_hmacStep_andThen, genSteps_eq_hmacStep_andThen, encoded,
    hmacStep_withUnread (s := s.afterEncode alg dig) secret, andThen_withUnread (truncStep_withUnread u),
    andThen_withUnread fun _ => rfl, andThen_withUnread (formatStep_withUnread u)]

/-- A command other than ZERO does the same from two states with one secret, and carries along what it does not read. -/
theorem commandStep_withUnread {i : Instr} (notZero : i ≠ .zero) {s u : State}
    (secret : (s.withUnread u).secret = s.secret) : commandStep i (s.withUnread u) = (commandStep i s).withUnread u := by
  cases i with
  | nop => rfl
  | gen alg dig => exact genSteps_withUnread secret alg.bits dig.bits
  | resolve alg dig => rfl
  | encode => rfl
  | hmac => exact hmacStep_withUnread secret
  | trunc => exact truncStep_withUnread u s
  | reduce => rfl
  | format => exact formatStep_withUnread u s
  | zero => exact absurd rfl notZero

theorem exec_withUnread {i : Instr} (notZero : i ≠ .zero) {s u : State} (secret : (s.withUnread u).secret = s.secret) :
    exec i (s.withUnread u) = .next ((commandStep i s).state.withUnread u) := by
  rw [exec_eq_commandStep, commandStep_withUnread notZero secret, state_withUnread]

/-- Settles O43: CTRL is carried along, and ZERO keeps whatever it holds. -/
theorem commandsDoNotDependOnCtrl : Obligations.CommandsDoNotDependOnCtrl := by
  intro i s c
  refine ⟨_, exec_eq_commandStep i s, ?_⟩
  by_cases zero : i = .zero
  · subst zero; rfl
  · have same := commandStep_sameInputs zero s
    have carried := exec_withUnread zero (s := s) (u := { s with ctrl := c }) rfl
    exact carried.trans (by simp [State.withUnread, same.key, same.pending])

/-- Settles O30: KEY is carried along where it holds the same secret, and ZERO clears it whatever it holds. -/
theorem keyBytesBeyondKeylenAreIgnored : Obligations.KeyBytesBeyondKeylenAreIgnored := by
  intro i s k agrees
  refine ⟨_, exec_eq_commandStep i s, ?_⟩
  by_cases zero : i = .zero
  · subst zero; rfl
  · have same := commandStep_sameInputs zero s
    have secret : k.readBytes 0 s.keylen.toNat = s.secret :=
      Memory.readBytes_congr fun j hj => by simpa using agrees j hj
    have carried := exec_withUnread zero (s := s) (u := { s with key := k }) secret
    exact carried.trans (by simp [State.withUnread, same.ctrl, same.pending, zero])

/-! ## The events still to serve (20_memory.md R68) -/

theorem exec_withPending (i : Instr) (s : State) (es : List Event) :
    exec i { s with pending := es } = .next { (commandStep i s).state with pending := es } := by
  by_cases zero : i = .zero
  · subst zero; rfl
  · have same := commandStep_sameInputs zero s
    have carried := exec_withUnread zero (s := s) (u := { s with pending := es }) rfl
    exact carried.trans (by simp [State.withUnread, same.ctrl, same.key])

theorem fail_withPending (s : State) (e : ErrCode) (es : List Event) :
    State.fail { s with pending := es } e = { s.fail e with pending := es } := by
  simp only [State.fail, State.setErr]

theorem executeWord_withPending (w : CmdWord) (s : State) :
    ∃ t : State, ∀ es, executeWord w { s with pending := es } = .next { t with pending := es } := by
  cases answer : decode w with
  | command i => exact ⟨_, fun es => (executeWord_of_command answer _).trans (exec_withPending i s es)⟩
  | illegal why =>
    exact ⟨s.fail .illegal, fun es => (executeWord_of_illegal answer _).trans (by rw [fail_withPending])⟩

theorem writeReg_withPending (s : State) (r : Reg) (v : Nat) (es : List Event) :
    State.writeReg { s with pending := es } r v = { s.writeReg r v with pending := es } := by
  cases r <;> rfl

theorem hostWriteByte_withPending (s : State) (b i : Nat) (v : Byte) (es : List Event) :
    State.hostWriteByte { s with pending := es } b i v = { s.hostWriteByte b i v with pending := es } := by
  unfold State.hostWriteByte
  cases Buf.ofNumber b with
  | none => rfl
  | some buf =>
    by_cases hi : i < bufSize s.config buf
    · simp only [hi, if_true]
      cases buf <;> rfl
    · simp only [hi, if_false]

/-- A step on an event leaves the same state whatever events stand behind it. -/
theorem step_withPending (s : State) (e : Event) :
    ∃ t : State, ∀ es, step { s with pending := e :: es } = .next { t with pending := es } := by
  obtain ⟨v, rfl, -⟩ | ⟨n, r, v, rfl, named, notCmd, -⟩ | ⟨n, v, rfl, unnamed, -⟩ | ⟨n, rfl, -⟩ | ⟨b, i, v, rfl, -⟩ |
    ⟨b, i, rfl, -⟩ | ⟨rfl, -⟩ := serve_cases e s
  · exact executeWord_withPending (commandWord v) s
  · exact ⟨s.writeReg r v, fun es => by rw [step_hostWrite_register rfl named notCmd, writeReg_withPending s r v es]⟩
  · exact ⟨s, fun es => step_hostWrite_unnamed rfl unnamed⟩
  · exact ⟨s.reply (s.hostRead n), fun es => rfl⟩
  · exact ⟨s.hostWriteByte b i v, fun es => congrArg _ (hostWriteByte_withPending s b i v es)⟩
  · exact ⟨s.reply (s.hostReadByte b i), fun es => rfl⟩
  · exact ⟨s.afterReset, fun es => rfl⟩

theorem run_withPending (first : List Event) (s : State) :
    ∃ t : State, ∀ later, core.run first.length { s with pending := first ++ later } = .next { t with pending := later } := by
  induction first generalizing s with
  | nil => exact ⟨s, fun later => rfl⟩
  | cons e first ih =>
    obtain ⟨t, stepped⟩ := step_withPending s e
    obtain ⟨u, run⟩ := ih t
    exact ⟨u, fun later => (run_succ (stepped (first ++ later)) first.length).trans (run later)⟩

/-- Settles O12, by induction on the events served. -/
theorem laterEventsDoNotAffectEarlierOnes : Obligations.LaterEventsDoNotAffectEarlierOnes := by
  intro s first later
  obtain ⟨t, run⟩ := run_withPending first s
  have alone := run []
  rw [List.append_nil] at alone
  exact ⟨_, alone, rfl, run later⟩

/-! ## The error of an earlier command -/

theorem resolveStep_ignoresErr (alg dig : Nibble) : IgnoresErr (resolveStep alg dig) := fun s e => by
  simp [resolveStep, State.succeed, State.setErr]

theorem genSteps_ignoresErr (alg dig : Nibble) : IgnoresErr (genSteps alg dig) := fun s e => by
  rw [genSteps, genSteps, resolveStep_ignoresErr]

theorem commandStep_ignoresErr {i : Instr} (notNop : i ≠ .nop) : IgnoresErr (commandStep i) := by
  cases i with
  | nop => exact absurd rfl notNop
  | gen alg dig => exact genSteps_ignoresErr alg.bits dig.bits
  | resolve alg dig => exact resolveStep_ignoresErr alg.bits dig.bits
  | encode => exact encodeStep_ignoresErr
  | hmac => exact hmacStep_ignoresErr
  | trunc => exact truncStep_ignoresErr
  | reduce => exact reduceStep_ignoresErr
  | format => exact formatStep_ignoresErr
  | zero => exact fun _ _ => rfl

/-- Settles O44: every end of a step overwrites ERR, and ZERO clears it. -/
theorem commandsDoNotDependOnEarlierErrors : Obligations.CommandsDoNotDependOnEarlierErrors := by
  intro i s e notNop
  refine ⟨_, exec_eq_commandStep i s, ?_⟩
  have sameEnd : commandStep i { s with status := withErr s.status e } = commandStep i s :=
    commandStep_ignoresErr notNop s e
  rw [exec_eq_commandStep, sameEnd]

end Sys2Proof.Machine
end

section
/-! PROOFS. What GEN's result depends on, and how it can fail (43_generate_and_system.md R140, R142). -/

namespace Sys2Proof.Machine

/-! ## GEN depends on its operands only (R142) -/

/-- The results that R142 lists are the same in two states: ERR, PASSLEN and PASS, and with no error all that GEN wrote. -/
def State.SameResult (t t' : State) : Prop :=
  t.err = t'.err ∧ t.passlen = t'.passlen ∧ (∀ i < 16, t.pass.read i = t'.pass.read i) ∧
    (t.err = 0 → t.edig = t'.edig ∧ t.ealg = t'.ealg ∧ (∀ i < 8, t.msg.read i = t'.msg.read i) ∧
      (∀ i < 64, t.digest.read i = t'.digest.read i) ∧ t.dlen = t'.dlen ∧ t.offset = t'.offset ∧ t.tval = t'.tval ∧
      t.code = t'.code)

/-- Two states in which steps 4 to 7 do the same: what they read of the state that steps 1 to 3 leave. -/
structure State.SameHashInputs (t t' : State) : Prop where
  config : t.config = t'.config
  keylen : t.keylen = t'.keylen
  ealg : t.ealg = t'.ealg
  edig : t.edig = t'.edig
  msg : ∀ i < 8, t.msg.read i = t'.msg.read i
  keyedHash : t.keyedHash = t'.keyedHash

theorem afterEncode_sameHashInputs (alg dig : Nibble) {s s' : State} (config : s.config = s'.config)
    (keylen : s.keylen = s'.keylen) (ctr : s.ctr = s'.ctr) (key : ∀ i < s.keylen.toNat, s.key.read i = s'.key.read i) :
    (s.afterEncode alg dig).SameHashInputs (s'.afterEncode alg dig) where
  config := config
  keylen := keylen
  ealg := rfl
  edig := rfl
  msg i hi := by rw [(read_msg_afterEncode alg dig s).1 i hi, (read_msg_afterEncode alg dig s').1 i hi, ctr]
  keyedHash := by
    have secret : s.key.readBytes 0 s.keylen.toNat = s'.key.readBytes 0 s.keylen.toNat :=
      Memory.readBytes_congr fun i hi => by simpa using key i hi
    rw [keyedHash_afterEncode, keyedHash_afterEncode, secret, keylen, ctr]

theorem fail_sameResult (t t' : State) (e : ErrCode) : (t.fail e).SameResult (t'.fail e) := by
  refine ⟨by rw [err_fail, err_fail], rfl, fun i hi => ?_, fun noError => ?_⟩
  · rw [(fail_noPasscode t e).2 i hi, (fail_noPasscode t' e).2 i hi]
  · exact absurd (err_fail t e ▸ noError) (number_ne_zero e)

theorem offset_afterTrunc_congr {t t' : State} (same : t.SameHashInputs t') :
    t.afterHmac.afterTrunc.offset = t'.afterHmac.afterTrunc.offset := by
  refine BitVec.eq_of_toNat_eq ?_
  calc t.afterHmac.afterTrunc.offset.toNat
      = (t.keyedHash.getD (digestLen t.ealg - 1) 0).toNat % 16 := toNat_digestOffset_afterHmac t
    _ = (t'.keyedHash.getD (digestLen t'.ealg - 1) 0).toNat % 16 := by rw [same.keyedHash, same.ealg]
    _ = t'.afterHmac.afterTrunc.offset.toNat := (toNat_digestOffset_afterHmac t').symm

theorem digest_afterHmac_congr {t t' : State} (same : t.SameHashInputs t') (i : Nat) (hi : i < 64) :
    t.afterHmac.digest.read i = t'.afterHmac.digest.read i := by
  rw [read_digest_afterHmac, read_digest_afterHmac, if_pos hi, if_pos hi, same.keyedHash]

/-- The window that step 5 reads lies inside DIGEST, which holds the same bytes. -/
theorem tval_afterTrunc_congr {t t' : State} (same : t.SameHashInputs t') :
    t.afterHmac.afterTrunc.tval = t'.afterHmac.afterTrunc.tval := by
  have offset := congrArg BitVec.toNat (offset_afterTrunc_congr same)
  have inDigest : t.afterHmac.afterTrunc.offset.toNat + 4 ≤ 64 := by
    have := t.afterHmac.afterTrunc.offset.isLt
    omega
  have window : t.afterHmac.digest.readBytes t.afterHmac.afterTrunc.offset.toNat 4 =
      t'.afterHmac.digest.readBytes t'.afterHmac.afterTrunc.offset.toNat 4 := by
    rw [← offset]
    exact Memory.readBytes_congr fun k hk => digest_afterHmac_congr same _ (by omega)
  exact congrArg (fun bs => BitVec.ofNat 31 (beNat bs &&& 0x7FFFFFFF)) window

theorem passcode_sameResult {t t' : State} (same : t.SameHashInputs t') :
    t.afterHmac.afterTrunc.afterReduce.afterFormat.succeed.SameResult
      t'.afterHmac.afterTrunc.afterReduce.afterFormat.succeed := by
  have tval := tval_afterTrunc_congr same
  have edig : t.afterHmac.afterTrunc.edig = t'.afterHmac.afterTrunc.edig := same.edig
  have digits : t.afterHmac.afterTrunc.afterReduce.edig = t'.afterHmac.afterTrunc.afterReduce.edig := same.edig
  have code : t.afterHmac.afterTrunc.afterReduce.code = t'.afterHmac.afterTrunc.afterReduce.code := by
    refine BitVec.eq_of_toNat_eq ?_
    rw [toNat_code_afterReduce, toNat_code_afterReduce, tval, edig]
  refine ⟨by rw [err_succeed, err_succeed], same.edig, fun i hi => ?_, fun _ => ⟨same.edig, same.ealg, same.msg,
    digest_afterHmac_congr same, ?_, offset_afterTrunc_congr same, tval, code⟩⟩
  · rw [succeed_pass, succeed_pass, read_pass_afterFormat, read_pass_afterFormat, if_pos hi, if_pos hi, code,
      digits]
  · exact congrArg (fun h => BitVec.ofNat 7 (digestLen h)) same.ealg

/-- Settles O40: the two runs take the same one of GEN's four ends, which leaves the same results. -/
theorem genDependsOnItsOperandsOnly : Obligations.GenDependsOnItsOperandsOnly := by
  intro a d s s' config keylen ctr key
  refine ⟨_, _, exec_gen a d s, exec_gen a d s', ?_⟩
  have same := afterEncode_sameHashInputs a.bits d.bits config keylen ctr key
  change State.SameResult _ _
  rw [genSteps_eq_ite (s := s) rfl, genSteps_eq_ite (s := s') rfl, ← same.config, ← same.keylen, ← same.ealg,
    ← same.keyedHash]
  split_ifs
  · exact fail_sameResult _ _ .hash
  · exact fail_sameResult _ _ .keylen
  · exact fail_sameResult _ _ .window
  · exact passcode_sameResult same

/-! ## How GEN fails -/

/-- An offset is at most 15, so only a digest shorter than 19 bytes can be left by the window (R121). -/
theorem eq_md5_of_window_leaves {h : HashAlg} {b : Byte} (leaves : digestLen h < b.toNat % 16 + 4) : h = .md5 := by
  have short : digestLen h < 19 := by omega
  revert short
  cases h <;> decide

theorem isAsciiDigit_of_mem_passcode_afterFormat {s : State} {b : Byte} (hb : b ∈ s.afterFormat.passcode) :
    IsAsciiDigit b := by
  obtain ⟨k, hk, rfl⟩ := List.mem_map.mp hb
  rw [Nat.zero_add]
  exact isAsciiDigit_pass_afterFormat s (List.mem_range.mp hk)

/-- Settles O41: of GEN's four ends the two errors of step 4 are excluded, and the error of step 5 is MD5's. -/
theorem genFailsOnlyForMd5Windows : Obligations.GenFailsOnlyForMd5Windows := by
  intro a d s present fits
  refine ⟨_, exec_gen a d s, ?_⟩
  rw [genSteps_eq_ite rfl]
  split_ifs with absent tooLong leaves
  · exact absurd (absent.symm.trans (present _)) Bool.false_ne_true
  · exact absurd tooLong (Nat.not_lt.mpr fits)
  · exact .inr ⟨err_fail _ .window, rfl, eq_md5_of_window_leaves leaves⟩
  · exact .inl ⟨⟨err_succeed _, resolveDigits_ne_zero d.bits⟩, rfl, fun b => isAsciiDigit_of_mem_passcode_afterFormat⟩

end Sys2Proof.Machine
end

section
/-! PROOFS. The host's accesses: what they return, what they store, what they leave alone (10_state.md R21, R22, R33, R42, R44,
R50 to R54). -/

namespace Sys2Proof.Machine

/-! ## Reads of a register and of a byte -/

theorem step_hostRead {s : State} {n : Nat} {rest : List Event} (h : s.pending = .hostRead n :: rest) :
    step s = .next { s with pending := rest, replies := s.replies ++ [s.hostRead n] } :=
  step_pending_cons s _ rest h

theorem step_hostReadByte {s : State} {b i : Nat} {rest : List Event} (h : s.pending = .hostReadByte b i :: rest) :
    step s = .next { s with pending := rest, replies := s.replies ++ [s.hostReadByte b i] } :=
  step_pending_cons s _ rest h

theorem hostRead_of_named {n : Nat} {r : Reg} (h : Reg.ofNumber n = some r) (s : State) : s.hostRead n = s.readReg r := by
  rw [State.hostRead, h]

theorem hostRead_of_unnamed {n : Nat} (hn : 12 ≤ n) (s : State) : s.hostRead n = 0 := by
  rw [State.hostRead, Reg.ofNumber_eq_none hn]

theorem toNat_err (s : State) : s.err.toNat = s.status.toNat % 16 := by
  rw [State.err, BitVec.extractLsb'_toNat, Nat.shiftRight_zero]

theorem toNat_diag (s : State) : s.diag.toNat = if s.diag then 1 else 0 := by
  cases s.diag <;> rfl

/-- Settles O51, number by number: the register each number names, and the value it is read as. -/
theorem hostReadReturnsTheRegister : Obligations.HostReadReturnsTheRegister := by
  intro s n rest pending
  refine ⟨_, step_hostRead pending, ?_⟩
  refine ⟨?_, ?_, ?_, ?_, ?_, ?_, ?_, ?_, ?_, ?_, ?_, ?_, fun hn => hostRead_of_unnamed hn s⟩ <;> rintro rfl
  · exact hostRead_of_named (r := .cmd) rfl s
  · exact (hostRead_of_named (r := .status) rfl s).trans (toNat_err s)
  · exact (hostRead_of_named (r := .ctrl) rfl s).trans (toNat_diag s)
  · exact hostRead_of_named (r := .keylen) rfl s
  · exact hostRead_of_named (r := .ctr) rfl s
  · exact hostRead_of_named (r := .ealg) rfl s
  · exact hostRead_of_named (r := .edig) rfl s
  · exact hostRead_of_named (r := .dlen) rfl s
  · exact hostRead_of_named (r := .offset) rfl s
  · exact hostRead_of_named (r := .tval) rfl s
  · exact hostRead_of_named (r := .code) rfl s
  · exact hostRead_of_named (r := .passlen) rfl s

theorem Buf.ofNumber_eq_none {b : Nat} (hb : 4 ≤ b) : Buf.ofNumber b = none := by
  unfold Buf.ofNumber
  split
  case h_5 => rfl
  all_goals omega

theorem hostReadByte_of_named {b : Nat} {buf : Buf} (h : Buf.ofNumber b = some buf) (s : State) (i : Nat) :
    s.hostReadByte b i = if i < bufSize s.config buf then s.readBufByte buf i else 0 := by
  rw [State.hostReadByte, h]

theorem hostReadByte_of_unnamed {b : Nat} (hb : 4 ≤ b) (s : State) (i : Nat) : s.hostReadByte b i = 0 := by
  rw [State.hostReadByte, Buf.ofNumber_eq_none hb]

/-- Settles O53, buffer by buffer. -/
theorem hostReadByteReturnsTheByte : Obligations.HostReadByteReturnsTheByte := by
  intro s b i rest pending
  refine ⟨_, step_hostReadByte pending, ?_, ?_, ?_, ?_, fun hb => hostReadByte_of_unnamed hb s i⟩ <;> rintro rfl
  · exact (hostReadByte_of_named (buf := .key) rfl s i).trans (ite_self 0)
  · exact (hostReadByte_of_named (buf := .msg) rfl s i).trans (ite_and ..).symm
  · exact (hostReadByte_of_named (buf := .digest) rfl s i).trans (ite_and ..).symm
  · exact hostReadByte_of_named (buf := .pass) rfl s i

/-! ## Writes of a byte -/

section
variable {s : State} {b i : Nat} {x : Byte} {rest : List Event} (pending : s.pending = .hostWriteByte b i x :: rest)
include pending

theorem step_hostWriteByte_inside {buf : Buf} (named : Buf.ofNumber b = some buf) (hi : i < bufSize s.config buf) :
    step s = .next (State.writeBufByte { s with pending := rest } buf i x) := by
  rw [step_pending_cons s _ rest pending, serve, State.hostWriteByte, named]
  exact congrArg _ (if_pos hi)

theorem step_hostWriteByte_outside {buf : Buf} (named : Buf.ofNumber b = some buf) (hi : bufSize s.config buf ≤ i) :
    step s = .next { s with pending := rest } := by
  rw [step_pending_cons s _ rest pending, serve, State.hostWriteByte, named]
  exact congrArg _ (if_neg (Nat.not_lt.mpr hi))

/-- The host cannot write PASS, and there is no buffer above it (R53, R54). -/
theorem step_hostWriteByte_of_three_le (hb : 3 ≤ b) : step s = .next { s with pending := rest } := by
  rw [step_pending_cons s _ rest pending, serve, State.hostWriteByte]
  obtain rfl | hb := hb.eq_or_lt
  · exact congrArg _ (ite_self _)
  · rw [Buf.ofNumber_eq_none hb]

end

/-- Settles O52, by whether the place lies inside KEY, MSG or DIGEST. -/
theorem hostWriteByteStoresOneByte : Obligations.HostWriteByteStoresOneByte := by
  intro s b i x rest pending
  refine ⟨?_, ?_, ?_, ?_⟩
  · rintro rfl hi
    exact ⟨_, step_hostWriteByte_inside pending (buf := .key) rfl hi, Memory.read_write s.key i x⟩
  · rintro rfl hi
    exact ⟨_, step_hostWriteByte_inside pending (buf := .msg) rfl hi, Memory.read_write s.msg i x⟩
  · rintro rfl hi
    exact ⟨_, step_hostWriteByte_inside pending (buf := .digest) rfl hi, Memory.read_write s.digest i x⟩
  · rintro (⟨rfl, hi⟩ | ⟨rfl, hi⟩ | ⟨rfl, hi⟩ | hb)
    · exact step_hostWriteByte_outside pending (buf := .key) rfl hi
    · exact step_hostWriteByte_outside pending (buf := .msg) rfl hi
    · exact step_hostWriteByte_outside pending (buf := .digest) rfl hi
    · exact step_hostWriteByte_of_three_le pending hb

/-! ## CTRL, written and read back (R42) -/

theorem diag_writeReg_ctrl (s : State) (v : Nat) : (s.writeReg .ctrl v).diag = (s.config.diagPresent && v.testBit 0) := by
  change (s.config.diagPresent && (ctrlOfWrite s.config.diagPresent v).getLsbD 0) = _
  unfold ctrlOfWrite
  cases s.config.diagPresent <;> cases v.testBit 0 <;> rfl

theorem toNat_diagBit (diagPresent : Bool) (v : Nat) :
    (diagPresent && v.testBit 0).toNat = if diagPresent then v % 2 else 0 := by
  cases diagPresent with
  | false => rfl
  | true => obtain bit | bit := Nat.mod_two_eq_zero_or_one v <;> simp [bit]

/-- Settles O54: the write stores bit 0 where there is a path, and the read returns it. -/
theorem ctrlReadsBackItsDiagBit : Obligations.CtrlReadsBackItsDiagBit := by
  intro s v pending
  have written := step_hostWrite_register pending (r := .ctrl) rfl (by decide)
  have read := step_hostRead (s := State.writeReg { s with pending := [.hostRead 2] } .ctrl v) (n := 2) rfl
  refine ⟨_, (run_succ written 1).trans (run_succ read 0), ?_⟩
  change s.replies ++ [(State.writeReg { s with pending := [.hostRead 2] } .ctrl v).diag.toNat] = _
  rw [diag_writeReg_ctrl, toNat_diagBit]

/-! ## Runs of reads -/

/-- The event is a read: a `HostRead` or a `HostReadByte`. -/
def Event.IsRead (e : Event) : Prop := (∃ n, e = .hostRead n) ∨ ∃ b i, e = .hostReadByte b i

theorem step_read {s : State} {e : Event} {rest : List Event} (pending : s.pending = e :: rest) (read : e.IsRead) :
    step s = .next { s with pending := rest, replies := s.replies ++ s.valuesRead e } := by
  obtain ⟨n, rfl⟩ | ⟨b, i, rfl⟩ := read
  · exact step_hostRead pending
  · exact step_hostReadByte pending

/-- States with the same registers and bytes to read hand the host the same values. -/
theorem valuesRead_congr {s t : State} (config : t.config = s.config) (registers : ∀ r, t.readReg r = s.readReg r)
    (bytes : ∀ b i, t.readBufByte b i = s.readBufByte b i) : t.valuesRead = s.valuesRead := by
  funext e
  cases e with
  | hostRead n => simp only [State.valuesRead, State.hostRead, registers]
  | hostReadByte b i => simp only [State.valuesRead, State.hostReadByte, config, bytes]
  | hostWrite | hostWriteByte | reset => rfl

/-- A list of reads is answered with the values that each would read in the state before them all. -/
theorem run_reads {s : State} {es : List Event} (pending : s.pending = es) (reads : ∀ e ∈ es, e.IsRead) :
    core.run es.length s = .next { s with pending := [], replies := s.replies ++ es.flatMap s.valuesRead } := by
  induction es generalizing s with
  | nil => exact congrArg Host.Outcome.next (by rw [List.flatMap_nil, List.append_nil, ← pending])
  | cons e es ih =>
    have stepped := step_read pending (reads e (by simp))
    have rest := ih (s := { s with pending := es, replies := s.replies ++ s.valuesRead e }) rfl
      fun e' he' => reads e' (by simp [he'])
    refine (run_succ stepped es.length).trans (rest.trans ?_)
    have later : State.valuesRead { s with pending := es, replies := s.replies ++ s.valuesRead e } = s.valuesRead :=
      valuesRead_congr rfl (fun r => by cases r <;> rfl) (fun b i => by cases b <;> rfl)
    rw [later, List.flatMap_cons, List.append_assoc]

/-- Settles O55: no value that a read returns depends on KEY. -/
theorem readsNeverRevealTheKey : Obligations.ReadsNeverRevealTheKey := by
  intro s k reads
  have hidden : State.valuesRead { s with key := k } = s.valuesRead :=
    valuesRead_congr rfl (fun r => by cases r <;> rfl) (fun b i => by cases b <;> rfl)
  have run := run_reads (s := { s with key := k }) rfl reads
  rw [hidden] at run
  exact ⟨_, run_reads rfl reads, run⟩

theorem gated_of_diag_off {s : State} (off : s.diag = false) (v : Nat) : s.gated v = 0 := by
  rw [State.gated, off]
  rfl

/-- Settles O56: while DIAG is 0 a gated register or buffer is read as 0, whatever it holds. -/
theorem gatedStateIsHiddenWhileDiagIsOff : Obligations.GatedStateIsHiddenWhileDiagIsOff := by
  intro s m dg o tv off reads
  have gated (v v' : Nat) : s.gated v = s.gated v' := (gated_of_diag_off off v).trans (gated_of_diag_off off v').symm
  have hidden : State.valuesRead { s with msg := m, digest := dg, offset := o, tval := tv } = s.valuesRead := by
    refine valuesRead_congr rfl (fun r => ?_) (fun b i => ?_)
    · cases r with
      | offset | tval => exact gated _ _
      | cmd | status | ctrl | keylen | ctr | ealg | edig | dlen | code | passlen => rfl
    · cases b with
      | msg | digest => exact gated _ _
      | key | pass => rfl
  have run := run_reads (s := { s with msg := m, digest := dg, offset := o, tval := tv }) rfl reads
  rw [hidden] at run
  exact ⟨_, run_reads rfl reads, run⟩

/-! ## What the host's accesses leave alone -/

/-- The results of the commands are the same in the two states. -/
structure State.SameOutputs (s t : State) : Prop where
  status : t.status = s.status
  pass : t.pass = s.pass
  passlen : t.passlen = s.passlen
  code : t.code = s.code
  ealg : t.ealg = s.ealg
  edig : t.edig = s.edig
  offset : t.offset = s.offset

theorem writeReg_sameOutputs (s : State) (r : Reg) (v : Nat) : s.SameOutputs (s.writeReg r v) := by
  cases r <;> exact ⟨rfl, rfl, rfl, rfl, rfl, rfl, rfl⟩

theorem hostWriteByte_sameOutputs (s : State) (b i : Nat) (v : Byte) : s.SameOutputs (s.hostWriteByte b i v) := by
  obtain ⟨buf, -, -, h⟩ | h := hostWriteByte_cases s b i v <;> rw [h]
  · cases buf <;> exact ⟨rfl, rfl, rfl, rfl, rfl, rfl, rfl⟩
  · exact ⟨rfl, rfl, rfl, rfl, rfl, rfl, rfl⟩

theorem serve_sameOutputs {e : Event} (notReset : e ≠ .reset) (notCommand : ∀ v, e ≠ .hostWrite cmdNumber v) (s : State) :
    ∃ t, serve e s = .next t ∧ s.SameOutputs t := by
  obtain ⟨v, rfl, -⟩ | ⟨n, r, v, rfl, -, -, h⟩ | ⟨n, v, rfl, -, h⟩ | ⟨n, rfl, h⟩ | ⟨b, i, v, rfl, h⟩ | ⟨b, i, rfl, h⟩ |
    ⟨rfl, -⟩ := serve_cases e s
  · exact absurd rfl (notCommand v)
  · exact ⟨_, h, writeReg_sameOutputs s r v⟩
  · exact ⟨_, h, rfl, rfl, rfl, rfl, rfl, rfl, rfl⟩
  · exact ⟨_, h, rfl, rfl, rfl, rfl, rfl, rfl, rfl⟩
  · exact ⟨_, h, hostWriteByte_sameOutputs s b i v⟩
  · exact ⟨_, h, rfl, rfl, rfl, rfl, rfl, rfl, rfl⟩
  · exact absurd rfl notReset

/-- Settles O57, by the kinds of event that are neither Reset nor a command. -/
theorem hostAccessesTouchNoResult : Obligations.HostAccessesTouchNoResult := by
  intro s e rest pending notReset notCommand
  obtain ⟨t, served, same⟩ := serve_sameOutputs notReset notCommand { s with pending := rest }
  exact ⟨t, (step_pending_cons s e rest pending).trans served, same.status, same.pass, same.passlen, same.code, same.ealg,
    same.edig, same.offset⟩

end Sys2Proof.Machine
end
